-- ==== Sys2Proof/Word.lean ====
section
/-! DEFINITION. The word types of RLXPP576 (00_scope.md R9, R14, R15 to R17): fixed-width unsigned bit vectors. -/

namespace Sys2Proof

/-- A limb: one 64-bit word; also the width of the host data bus (00_scope.md R14, R17). -/
abbrev Limb := BitVec 64

/-- A 9-limb vector, 576 bits (00_scope.md R9, R17). -/
abbrev Vec576 := BitVec 576

/-- An 18-limb vector, 1152 bits, the "Double Limb Vector" (00_scope.md R9, R17). -/
abbrev Vec1152 := BitVec 1152

/-- A 32-bit command word (30_encoding.md R110). -/
abbrev CmdWord := BitVec 32

/-- A byte offset within the 0x800-byte register window (20_memory.md R71). -/
abbrev WinOff := BitVec 11

/-- The number of a vector register, `V0` to `V7` (10_state.md R38, 30_encoding.md R112). -/
abbrev VReg := Fin 8

end Sys2Proof
end

