-- ==== Sys2Proof/Config.lean ====
section
/-! DEFINITION. What is fixed for the hardware: arithmetic parameters, generator configuration, constants (00_scope.md R9 to R14, 10_state.md R31, R32, R40, R41). Nothing here is left open by the spec, so no constant is opaque. -/

namespace Sys2Proof.Config

/-- `W`, the output word width in bits (00_scope.md R10). -/
def wordBits : Nat := 48

/-- `BLOCK_BITS`, the block capacity in bits (00_scope.md R10). -/
def blockBits : Nat := 576

/-- `WORDS_PER_BLOCK` = 576 / 48 (00_scope.md R10). -/
def wordsPerBlock : Nat := 12

/-- The modulus `m = 2^576 − 2^240 + 1` (00_scope.md R9, 10_state.md R41). -/
@[irreducible] def modulus : Nat := 2 ^ 576 - 2 ^ 240 + 1

/-- The length of the register window in bytes (20_memory.md R71). -/
def windowBytes : Nat := 0x800

/-- The `ID` register: magic "RLX+" and version 7 (10_state.md R31). -/
def idValue : Limb := 0x00000007524C582B#64

/-- The `CFG` register (10_state.md R32). -/
def cfgValue : Limb := 0x000008090C024030#64

/-- The LCG multiplier `A`, limb 8 first as `++` writes it (10_state.md R40).
Its value is the spec's own, supplied there from general knowledge (93_implementation_defined.md I1). -/
def kA : Vec576 :=
  0xb48c187cf5b22097#64 ++ 0x492edfcc0cc8e753#64 ++ 0xff74e54107684ed2#64 ++
  0x256c3d3c662ea36c#64 ++ 0x20b2ca60cb78c509#64 ++ 0x6d8a15a13bee7cb0#64 ++
  0xe64dcb31c48228ec#64 ++ 0x4cec2c78af55c101#64 ++ 0xed7faa90747aaad9#64

end Sys2Proof.Config
end

