-- ==== Sys2Proof/Machine/Kernel.lean ====
section
/-! DEFINITION. The arithmetic kernel: `Multiply`, `Reduce`, `MulMod` and `PowerMod`, pure functions over limb vectors (40_arith.md R141 to R145, 00_scope.md R21). In every product the fixed factor stands first: the kernel unfolds a product by its second factor, and a literal of 576 bits there would be unfolded digit by digit. -/

namespace Sys2Proof.Machine

/-- `Multiply(a, b)`: the exact 1152-bit product (40_arith.md R141). -/
@[irreducible] def multiply (a b : Vec576) : Vec1152 := BitVec.ofNat 1152 (b.toNat * a.toNat)

/-- One pass of the fold loop: `(y mod 2^576) + (y >> 576)·(2^240 − 1)` (40_arith.md R142). -/
@[irreducible] def foldPass (y : Nat) : Nat := y % 2 ^ 576 + (2 ^ 240 - 1) * (y >>> 576)

/-- The fold loop with room for `fuel` passes: while `y ≥ 2^576`, do a pass (40_arith.md R142). -/
def foldLoop : Nat → Nat → Nat
  | 0, y => y
  | fuel + 1, y => if 2 ^ 576 ≤ y then foldLoop fuel (foldPass y) else y

/-- `Reduce(x)`: the fold loop, which runs at most 3 passes (40_arith.md R142, R143 item 4; log entry 11). -/
@[irreducible] def reduce (x : Vec1152) : Vec576 := BitVec.ofNat 576 (foldLoop 3 x.toNat)

/-- `MulMod(a, b) = Reduce(Multiply(a, b))` (40_arith.md R144). -/
def mulMod (a b : Vec576) : Vec576 := reduce (multiply a b)

/-- The square-and-multiply loop: `n` exponent bits are left, bit `n − 1` next (40_arith.md R145). -/
def powerLoop (base : Vec576) (e : Limb) : Nat → Vec576 → Vec576
  | 0, r => r
  | n + 1, r =>
    let sq := mulMod r r
    powerLoop base e n (if e.getLsbD n then mulMod sq base else sq)

/-- `PowerMod(b, e)`: 64 steps from bit 63, starting at 1 (40_arith.md R145). -/
@[irreducible] def powerMod (b : Vec576) (e : Limb) : Vec576 := powerLoop b e 64 1

end Sys2Proof.Machine
end

