-- ==== Sys2Proof/Syntax.lean ====
section
/-! DEFINITION. The 15 commands, their opcodes, and the fields of a command word (30_encoding.md R111, R114). -/

namespace Sys2Proof

/-- The commands of RLXPP576, one constructor per row of the opcode map (30_encoding.md R114), with the
vector registers each one names, destination first (R121). Scalar, wide and generator operands are implicit (R113). -/
inductive Instr where
  /-- `NOP` (40_arith.md R146). -/
  | nop
  /-- `MUL va, vb` (40_arith.md R147). -/
  | mul (ra rb : VReg)
  /-- `RED vd` (40_arith.md R148). -/
  | red (rd : VReg)
  /-- `MULMOD vd, va, vb` (40_arith.md R149). -/
  | mulmod (rd ra rb : VReg)
  /-- `POWMOD vd, va` (40_arith.md R150). -/
  | powmod (rd ra : VReg)
  /-- `LDA vd` (40_arith.md R151). -/
  | lda (rd : VReg)
  /-- `MOV vd, va` (40_arith.md R152). -/
  | mov (rd ra : VReg)
  /-- `TOLCG vd` (41_codec.md R206). -/
  | tolcg (rd : VReg)
  /-- `TORANLUX va` (41_codec.md R207). -/
  | toranlux (ra : VReg)
  /-- `SEED` (42_generator.md R232). -/
  | seed
  /-- `ADVANCE` (42_generator.md R236). -/
  | advance
  /-- `NEXT` (42_generator.md R240). -/
  | next
  /-- `SKIP` (42_generator.md R245). -/
  | skip
  /-- `NEXTDBL` (42_generator.md R248). -/
  | nextdbl
  /-- `RESTORE` (42_generator.md R250). -/
  | restore
  deriving DecidableEq, Repr

/-- The names of the opcode map's rows (30_encoding.md R114). -/
inductive Opcode where
  | nop | mul | red | mulmod | powmod | lda | mov | tolcg | toranlux
  | seed | advance | next | skip | nextdbl | restore
  deriving DecidableEq, Repr

/-- The opcode of a command. -/
def Instr.opcode : Instr → Opcode
  | .nop => .nop
  | .mul _ _ => .mul
  | .red _ => .red
  | .mulmod _ _ _ => .mulmod
  | .powmod _ _ => .powmod
  | .lda _ => .lda
  | .mov _ _ => .mov
  | .tolcg _ => .tolcg
  | .toranlux _ => .toranlux
  | .seed => .seed
  | .advance => .advance
  | .next => .next
  | .skip => .skip
  | .nextdbl => .nextdbl
  | .restore => .restore

/-- The seven fields of format `R`, lowest bits first (30_encoding.md R111). -/
structure CommandFields where
  /-- bits 7:0 -/
  opc : BitVec 8
  /-- bits 10:8 -/
  rd : BitVec 3
  /-- bit 11, reserved -/
  z0 : BitVec 1
  /-- bits 14:12 -/
  ra : BitVec 3
  /-- bit 15, reserved -/
  z1 : BitVec 1
  /-- bits 18:16 -/
  rb : BitVec 3
  /-- bits 31:19, reserved -/
  z2 : BitVec 13
  deriving DecidableEq, Repr

/-- Which of the three register fields a command uses: the columns `RD`, `RA`, `RB` of the opcode map (30_encoding.md R114). -/
structure FieldUse where
  rd : Bool
  ra : Bool
  rb : Bool
  deriving DecidableEq, Repr

end Sys2Proof
end

