-- ==== Sys2Proof/WellFormed.lean ====
section
/-! DEFINITION. The checks on the fields of a command word (30_encoding.md R112, R117). A term of `Instr` names its registers by `Fin 8`, so every term is well formed; what can be ill formed is a command word. -/

namespace Sys2Proof

/-- The reserved bits `Z0`, `Z1` and `Z2` are 0 (30_encoding.md R117). -/
def CommandFields.reservedZero (f : CommandFields) : Bool :=
  f.z0 == 0 && f.z1 == 0 && f.z2 == 0

/-- Every register field the command does not use is 0 (30_encoding.md R112, R117). -/
def CommandFields.unusedZero (u : FieldUse) (f : CommandFields) : Bool :=
  (u.rd || f.rd == 0) && (u.ra || f.ra == 0) && (u.rb || f.rb == 0)

/-- The field checks of a legal opcode (30_encoding.md R117, R120). -/
def CommandFields.wellFormed (u : FieldUse) (f : CommandFields) : Bool :=
  f.reservedZero && f.unusedZero u

end Sys2Proof
end

