-- ==== Sys2Proof/Decode.lean ====
section
/-! DEFINITION. The command decoder, total and rejecting by name, and the encoder (30_encoding.md R110 to R121). -/

namespace Sys2Proof

/-! ### The opcode map (R114) -/

/-- Every opcode of the map, in its order (30_encoding.md R114). -/
def Opcode.all : List Opcode :=
  [.nop, .mul, .red, .mulmod, .powmod, .lda, .mov, .tolcg, .toranlux,
   .seed, .advance, .next, .skip, .nextdbl, .restore]

/-- The column `OPC` (30_encoding.md R114). -/
def Opcode.byte : Opcode → BitVec 8
  | .nop => 0x00#8
  | .mul => 0x01#8
  | .red => 0x02#8
  | .mulmod => 0x03#8
  | .powmod => 0x04#8
  | .lda => 0x05#8
  | .mov => 0x06#8
  | .tolcg => 0x08#8
  | .toranlux => 0x09#8
  | .seed => 0x10#8
  | .advance => 0x11#8
  | .next => 0x12#8
  | .skip => 0x13#8
  | .nextdbl => 0x14#8
  | .restore => 0x15#8

/-- The columns `RD`, `RA`, `RB` (30_encoding.md R114). -/
def Opcode.use : Opcode → FieldUse
  | .nop => ⟨false, false, false⟩
  | .mul => ⟨false, true, true⟩
  | .red => ⟨true, false, false⟩
  | .mulmod => ⟨true, true, true⟩
  | .powmod => ⟨true, true, false⟩
  | .lda => ⟨true, false, false⟩
  | .mov => ⟨true, true, false⟩
  | .tolcg => ⟨true, false, false⟩
  | .toranlux => ⟨false, true, false⟩
  | .seed => ⟨false, false, false⟩
  | .advance => ⟨false, false, false⟩
  | .next => ⟨false, false, false⟩
  | .skip => ⟨false, false, false⟩
  | .nextdbl => ⟨false, false, false⟩
  | .restore => ⟨false, false, false⟩

/-- The column "needs Ready" (30_encoding.md R114, 60_exceptions.md R305). -/
def Opcode.needsReady : Opcode → Bool
  | .advance | .next | .skip | .nextdbl => true
  | .nop | .mul | .red | .mulmod | .powmod | .lda | .mov | .tolcg | .toranlux | .seed | .restore => false

/-- `lookup` of the command issue: the opcode a byte selects, if any (30_encoding.md R116, R120). -/
def Opcode.lookup (b : BitVec 8) : Option Opcode :=
  Opcode.all.find? (fun op => op.byte == b)

/-- The command an opcode makes of the three register fields (30_encoding.md R112, R113). -/
def Opcode.build (rd ra rb : VReg) : Opcode → Instr
  | .nop => .nop
  | .mul => .mul ra rb
  | .red => .red rd
  | .mulmod => .mulmod rd ra rb
  | .powmod => .powmod rd ra
  | .lda => .lda rd
  | .mov => .mov rd ra
  | .tolcg => .tolcg rd
  | .toranlux => .toranlux ra
  | .seed => .seed
  | .advance => .advance
  | .next => .next
  | .skip => .skip
  | .nextdbl => .nextdbl
  | .restore => .restore

/-! ### Fields of a word (R111) -/

/-- The fields of a command word (30_encoding.md R111). -/
def CommandFields.split (w : CmdWord) : CommandFields where
  opc := w.extractLsb' 0 8
  rd := w.extractLsb' 8 3
  z0 := w.extractLsb' 11 1
  ra := w.extractLsb' 12 3
  z1 := w.extractLsb' 15 1
  rb := w.extractLsb' 16 3
  z2 := w.extractLsb' 19 13

/-- The command word with the given fields (30_encoding.md R111). -/
def CommandFields.pack (f : CommandFields) : CmdWord :=
  f.z2 ++ f.rb ++ f.z1 ++ f.ra ++ f.z0 ++ f.rd ++ f.opc

/-! ### The decoder (R116, R117, R120) -/

/-- Why a `CMD` write names no command, in the order the checks run (30_encoding.md R120). -/
inductive DecodeError where
  /-- bits 63:32 of the write are not 0 (R110): `E_RSV`. -/
  | upperBits
  /-- bits 7:0 are no opcode of the map (R116): `E_OPC`. -/
  | illegalOpcode
  /-- a reserved bit or an unused register field is not 0 (R117): `E_RSV`. -/
  | reservedField
  deriving DecidableEq, Repr

/-- The register a 3-bit field names (30_encoding.md R112). -/
def vregOfField (x : BitVec 3) : VReg := x.toFin

/-- The command of a 32-bit command word (30_encoding.md R116, R117). -/
def decode (w : CmdWord) : Except DecodeError Instr :=
  let f := CommandFields.split w
  match Opcode.lookup f.opc with
  | none => .error .illegalOpcode
  | some op =>
    if f.wellFormed op.use then
      .ok (op.build (vregOfField f.rd) (vregOfField f.ra) (vregOfField f.rb))
    else .error .reservedField

/-- The command a 64-bit write to `CMD` carries: bits 63:32 are checked first (30_encoding.md R110, R120). -/
def decodeCommand (v : Limb) : Except DecodeError Instr :=
  if v.extractLsb' 32 32 = 0 then decode (v.setWidth 32) else .error .upperBits

/-! ### The encoder (R111, R114) -/

/-- The 3-bit field that names a register (30_encoding.md R112). -/
def fieldOfVreg (r : VReg) : BitVec 3 := BitVec.ofFin r

/-- The register fields a command fills; a field it does not use is 0 (30_encoding.md R112, R114). -/
def Instr.fields (i : Instr) : CommandFields :=
  let f (rd ra rb : BitVec 3) : CommandFields := ⟨i.opcode.byte, rd, 0, ra, 0, rb, 0⟩
  match i with
  | .nop => f 0 0 0
  | .mul ra rb => f 0 (fieldOfVreg ra) (fieldOfVreg rb)
  | .red rd => f (fieldOfVreg rd) 0 0
  | .mulmod rd ra rb => f (fieldOfVreg rd) (fieldOfVreg ra) (fieldOfVreg rb)
  | .powmod rd ra => f (fieldOfVreg rd) (fieldOfVreg ra) 0
  | .lda rd => f (fieldOfVreg rd) 0 0
  | .mov rd ra => f (fieldOfVreg rd) (fieldOfVreg ra) 0
  | .tolcg rd => f (fieldOfVreg rd) 0 0
  | .toranlux ra => f 0 (fieldOfVreg ra) 0
  | .seed => f 0 0 0
  | .advance => f 0 0 0
  | .next => f 0 0 0
  | .skip => f 0 0 0
  | .nextdbl => f 0 0 0
  | .restore => f 0 0 0

/-- The command word of a command (30_encoding.md R111, R115). -/
def encode (i : Instr) : CmdWord := i.fields.pack

/-! ### The bit patterns of the table (R115) -/

/-- The column `match` (30_encoding.md R115). -/
def Opcode.matchWord : Opcode → CmdWord
  | .nop => 0x00000000#32
  | .mul => 0x00000001#32
  | .red => 0x00000002#32
  | .mulmod => 0x00000003#32
  | .powmod => 0x00000004#32
  | .lda => 0x00000005#32
  | .mov => 0x00000006#32
  | .tolcg => 0x00000008#32
  | .toranlux => 0x00000009#32
  | .seed => 0x00000010#32
  | .advance => 0x00000011#32
  | .next => 0x00000012#32
  | .skip => 0x00000013#32
  | .nextdbl => 0x00000014#32
  | .restore => 0x00000015#32

/-- The column `mask` (30_encoding.md R115). -/
def Opcode.maskWord : Opcode → CmdWord
  | .nop => 0xFFFFFFFF#32
  | .mul => 0xFFF88FFF#32
  | .red => 0xFFFFF8FF#32
  | .mulmod => 0xFFF888FF#32
  | .powmod => 0xFFFF88FF#32
  | .lda => 0xFFFFF8FF#32
  | .mov => 0xFFFF88FF#32
  | .tolcg => 0xFFFFF8FF#32
  | .toranlux => 0xFFFF8FFF#32
  | .seed => 0xFFFFFFFF#32
  | .advance => 0xFFFFFFFF#32
  | .next => 0xFFFFFFFF#32
  | .skip => 0xFFFFFFFF#32
  | .nextdbl => 0xFFFFFFFF#32
  | .restore => 0xFFFFFFFF#32

/-! ### The host's view of the decoder -/

/-- The command the decoder reads from a table word of `nbits` bits. A command word is bits 31:0 of a `CMD`
write (30_encoding.md R110), so the bits above `nbits` are 0. -/
def decodeTableWord (nbits w : Nat) : Option Instr :=
  match decodeCommand (BitVec.ofNat 64 (w % 2 ^ nbits)) with
  | .ok i => some i
  | .error _ => none

end Sys2Proof
end

