-- ==== Sys2Proof/Machine/State.lean ====
section
/-! DEFINITION. The state of RLXPP576 as plain data (10_state.md R30), the bus events it receives, and the state after reset (10_state.md R50). -/

namespace Sys2Proof.Machine

/-- The error codes of `ERRCODE` (60_exceptions.md R301); `E_NONE` is the absence of an error. -/
inductive ErrorCode where
  /-- 1, `E_OPC`: an illegal opcode. -/
  | opc
  /-- 2, `E_RSV`: a reserved bit or an unused field of a `CMD` write is not 0. -/
  | rsv
  /-- 3, `E_NOTREADY`: a generator command in Uninitialized. -/
  | notReady
  /-- 4, `E_ADDR`: an access to an unmapped offset. -/
  | addr
  /-- 5, `E_ACCESS`: a width other than 8 bytes, or a misaligned offset. -/
  | access
  /-- 6, `E_ROWRITE`: a write to a read-only register. -/
  | roWrite
  /-- 7, `E_VALUE`: a value that `CTRL`, `OFFSET` or `CARRY` does not take. -/
  | value
  deriving DecidableEq, Repr

/-- What can happen to the block in one step (00_scope.md R8): a bus transaction at a window offset, or a reset.
An offset of 11 bits lies in the window, because the platform routes only window accesses to the block (60_exceptions.md R303). -/
inductive BusEvent where
  /-- `BusRead(off, n)`: a read of `n` bytes (00_scope.md R19). -/
  | read (off : WinOff) (n : Nat)
  /-- `BusWrite(off, n, v)`: a write of `n` bytes (00_scope.md R19). Only an 8-byte write has its data read, so `v` is 64 bits. -/
  | write (off : WinOff) (n : Nat) (v : Limb)
  /-- A bus access outside the window, which the block does not decode (20_memory.md R71). -/
  | elsewhere
  /-- The external reset input (70_reset_and_hazards.md R350). -/
  | reset
  /-- A `CMD` write of `v` during whose hold the external reset arrives: the command is abandoned (70_reset_and_hazards.md R350). -/
  | abandonedCmd (v : Limb)
  /-- The platform removes power and restores it (60_exceptions.md R344). -/
  | powerCycle
  deriving DecidableEq, Repr

/-- The state: every piece of 10_state.md R30 that has storage, and two fields of the model's own, `pending` and `response`.
`ID`, `CFG` and `A` are constants of `Config`; `STATUS` is a view; `CTRL` and `CMD` store nothing. -/
structure State where
  /-- `V0` to `V7` (10_state.md R38). -/
  vreg : Vector Vec576 8
  /-- `PROD` (10_state.md R39). -/
  prod : Vec1152
  /-- `ARG` (10_state.md R36). -/
  arg : Limb
  /-- `RES` (10_state.md R37). -/
  res : Limb
  /-- `STATE`, the buffer of RANLUX form (10_state.md R42). -/
  state : Vec576
  /-- `CARRY`, the carry of RANLUX form (10_state.md R43). -/
  carry : BitVec 1
  /-- `OFFSET`, the bit offset of the next word in `STATE` (10_state.md R45). -/
  offset : BitVec 10
  /-- `READY`: Ready when true, Uninitialized when false (10_state.md R44). -/
  ready : Bool
  /-- `ERR`: an error is recorded (10_state.md R49). -/
  err : Bool
  /-- `ERRCODE` (10_state.md R49). -/
  errCode : BitVec 8
  /-- `ERRINFO` (10_state.md R49). -/
  errInfo : BitVec 32
  /-- DESIGN CHOICE (log entry 1): the model's input, the bus events the block has not received yet, oldest first. -/
  pending : List BusEvent
  /-- DESIGN CHOICE (log entry 2): the model's output, the data the latest bus event returned, if it was a read. -/
  response : Option Limb
  deriving DecidableEq, Repr

/-- Nothing stops the block: an error never aborts it (60_exceptions.md R300, R307) and there is no trap (R321).
The type has no constructor, so no step can answer a fault. Safe. -/
inductive Fault where
  deriving DecidableEq, Repr

/-- Why a step could have no meaning. -/
inductive Refusal where
  /-- An instruction without a meaning, by its mnemonic. Raised only by a refused arm of `exec`; there is none. Safe. -/
  | notModelled (mnemonic : String)
  deriving DecidableEq, Repr

/-- The machine right after reset (10_state.md R50). The model's own fields start with no event and no response
(DESIGN CHOICE, log entries 1 and 2). -/
def State.reset : State where
  vreg := Vector.replicate 8 0
  prod := 0
  arg := 0
  res := 0
  state := 0
  carry := 0
  offset := 0
  ready := false
  err := false
  errCode := 0
  errInfo := 0
  pending := []
  response := none

end Sys2Proof.Machine
end

