-- ==== Sys2Proof/Machine/Flags.lean ====
section
/-! DEFINITION. The 1-bit state and its view `STATUS` (10_state.md R34, R48), and the numbers of the error codes (60_exceptions.md R301). The block has no condition codes: no command sets a flag as a side effect of arithmetic (R48). -/

namespace Sys2Proof.Machine

/-- A 1-bit state as a bit. -/
def bitOf (b : Bool) : BitVec 1 := BitVec.ofBool b

/-- The number of an error code in `ERRCODE` (60_exceptions.md R301). -/
def ErrorCode.code : ErrorCode → BitVec 8
  | .opc => 1#8
  | .rsv => 2#8
  | .notReady => 3#8
  | .addr => 4#8
  | .access => 5#8
  | .roWrite => 6#8
  | .value => 7#8

/-- The value `STATUS` reads: `READY | ERR<<1 | ERRCODE<<8 | ERRINFO<<16` (10_state.md R34). -/
def statusWord (s : State) : Limb :=
  (bitOf s.ready).setWidth 64 ||| ((bitOf s.err).setWidth 64 <<< 1) |||
    (s.errCode.setWidth 64 <<< 8) ||| (s.errInfo.setWidth 64 <<< 16)

end Sys2Proof.Machine
end

