-- ==== Sys2Proof/Machine/Ops.lean ====
section
/-! DEFINITION. The named operations over registers: field updates, limbs, recording an error, clearing it, and reset (00_scope.md R17, R18, R20, 20_memory.md R81, 60_exceptions.md R302, R310, 70_reset_and_hazards.md R350). -/

namespace Sys2Proof.Machine

/-! ### Registers (00_scope.md R18) -/

/-- `V[r]`. -/
def State.readV (s : State) (r : VReg) : Vec576 := s.vreg[r.val]

/-- `V[r] <- x`. -/
def State.writeV (s : State) (r : VReg) (x : Vec576) : State := { s with vreg := s.vreg.set r.val x }

/-- `PROD <- x`. -/
def State.setProd (s : State) (x : Vec1152) : State := { s with prod := x }

/-- `ARG <- x`. -/
def State.setArg (s : State) (x : Limb) : State := { s with arg := x }

/-- `RES <- x`. -/
def State.setRes (s : State) (x : Limb) : State := { s with res := x }

/-- `STATE <- x`. -/
def State.setState (s : State) (x : Vec576) : State := { s with state := x }

/-- `CARRY <- c`. -/
def State.setCarry (s : State) (c : BitVec 1) : State := { s with carry := c }

/-- `OFFSET <- o`. -/
def State.setOffset (s : State) (o : BitVec 10) : State := { s with offset := o }

/-- `READY <- b`. -/
def State.setReady (s : State) (b : Bool) : State := { s with ready := b }

/-- `ERR`, `ERRCODE` and `ERRINFO` written together, as every writer of the error record does (10_state.md R49). -/
def State.setError (s : State) (e : Bool) (c : BitVec 8) (info : BitVec 32) : State :=
  { s with err := e, errCode := c, errInfo := info }

/-- `(STATE, CARRY) <- p` and `OFFSET <- o`: commands write `STATE` and `CARRY` only together, through the codec (10_state.md R42, R43). -/
def State.loadGenerator (s : State) (p : Vec576 × BitVec 1) (o : BitVec 10) : State :=
  ((s.setState p.1).setCarry p.2).setOffset o

/-- The model's input: the events not received yet (log entry 1). -/
def State.setPending (s : State) (es : List BusEvent) : State := { s with pending := es }

/-- The model's output: the data returned to the host (log entry 2). -/
def State.setResponse (s : State) (r : Option Limb) : State := { s with response := r }

/-! ### Limbs (00_scope.md R17, 20_memory.md R81) -/

/-- `limb_i(x) = x[64i+63 : 64i]` (00_scope.md R17). -/
def limb {n : Nat} (x : BitVec n) (i : Nat) : Limb := x.extractLsb' (64 * i) 64

/-- `X <- X − limb_i(X)·2^(64i) + v·2^(64i)` (20_memory.md R81). -/
@[irreducible] def setLimb {n : Nat} (x : BitVec n) (i : Nat) (v : Limb) : BitVec n :=
  BitVec.ofNat n (x.toNat - 2 ^ (64 * i) * (limb x i).toNat + 2 ^ (64 * i) * v.toNat)

/-! ### The error record (60_exceptions.md R302, R310) -/

/-- `raise Error(code, info)`: taking an exception is recording it. The first error wins (60_exceptions.md R302).
The block saves no other state and transfers control nowhere (R321). -/
def raiseError (c : ErrorCode) (info : Nat) (s : State) : State :=
  if s.err then s else s.setError true c.code (BitVec.ofNat 32 info)

/-- `ECLR`, the only action on the error record beside reset: the counterpart of a trap return (60_exceptions.md R310, R322). -/
def clearError (s : State) : State := s.setError false 0 0

/-- `ERRINFO` of a command error: the command word (60_exceptions.md R303). A legal command has one word (30_encoding.md R117),
so the word a command was issued with is its encoding (log entry 12). -/
def commandInfo (i : Instr) : Nat := (encode i).toNat

/-- The Ready check of a generator command: in Uninitialized it raises `E_NOTREADY` and does nothing else (60_exceptions.md R305). -/
def requireReady (i : Instr) (run : State → State) (s : State) : Host.Outcome State Fault Refusal :=
  if s.ready then .next (run s) else .next (raiseError .notReady (commandInfo i) s)

/-! ### Reset (70_reset_and_hazards.md R350, R351) -/

/-- Every piece of the block's state at its reset value (10_state.md R50). The events still to come and the response are
not the block's and stay (log entry 6). -/
def resetBlock (s : State) : State := (State.reset.setPending s.pending).setResponse s.response

end Sys2Proof.Machine
end

