-- ==== Sys2Proof/Machine/Operands.lean ====
section
/-! DEFINITION. The operand forms of a command: vector registers, the scalar `ARG`, and the implicit wide and generator operands (30_encoding.md R113). No operand is extended, scaled or signed. -/

namespace Sys2Proof.Machine

/-- A vector register operand, read whole (30_encoding.md R113). -/
def vectorOperand (s : State) (r : VReg) : Vec576 := s.readV r

/-- The exponent of `POWMOD`: `ARG` unchanged (30_encoding.md R113). -/
def exponentOperand (s : State) : Limb := s.arg

/-- The seed of `SEED`: `ARG` unchanged (30_encoding.md R113). -/
def seedOperand (s : State) : Limb := s.arg

/-- The count of `SKIP`: `ARG` unchanged (30_encoding.md R113). -/
def countOperand (s : State) : Limb := s.arg

/-- The wide operand of `RED`: `PROD` (30_encoding.md R113). -/
def wideOperand (s : State) : Vec1152 := s.prod

/-- The constant operand of `LDA` and of the generator: `A` (30_encoding.md R113, 10_state.md R40). -/
def multiplierOperand : Vec576 := Config.kA

end Sys2Proof.Machine
end

