-- ==== Sys2Proof/Machine/Arith.lean ====
section
/-! DEFINITION. The commands of the arithmetic kernel: `NOP`, `MUL`, `RED`, `MULMOD`, `POWMOD`, `LDA`, `MOV` (40_arith.md R146 to R152). Every operand is read before the result is written (00_scope.md R22). -/

namespace Sys2Proof.Machine

/-- `NOP`: nothing (40_arith.md R146). -/
def execNop (s : State) : Host.Outcome State Fault Refusal := .next s

/-- `MUL va, vb`: `PROD <- Multiply(V[ra], V[rb])` (40_arith.md R147). -/
def execMul (ra rb : VReg) (s : State) : Host.Outcome State Fault Refusal :=
  .next (s.setProd (multiply (vectorOperand s ra) (vectorOperand s rb)))

/-- `RED vd`: `V[rd] <- Reduce(PROD)` (40_arith.md R148). -/
def execRed (rd : VReg) (s : State) : Host.Outcome State Fault Refusal :=
  .next (s.writeV rd (reduce (wideOperand s)))

/-- `MULMOD vd, va, vb`: `V[rd] <- MulMod(V[ra], V[rb])` (40_arith.md R149). `PROD` is not written (10_state.md R39). -/
def execMulmod (rd ra rb : VReg) (s : State) : Host.Outcome State Fault Refusal :=
  .next (s.writeV rd (mulMod (vectorOperand s ra) (vectorOperand s rb)))

/-- `POWMOD vd, va`: `V[rd] <- PowerMod(V[ra], ARG)` (40_arith.md R150). -/
def execPowmod (rd ra : VReg) (s : State) : Host.Outcome State Fault Refusal :=
  .next (s.writeV rd (powerMod (vectorOperand s ra) (exponentOperand s)))

/-- `LDA vd`: `V[rd] <- A` (40_arith.md R151). -/
def execLda (rd : VReg) (s : State) : Host.Outcome State Fault Refusal :=
  .next (s.writeV rd multiplierOperand)

/-- `MOV vd, va`: `V[rd] <- V[ra]` (40_arith.md R152). -/
def execMov (rd ra : VReg) (s : State) : Host.Outcome State Fault Refusal :=
  .next (s.writeV rd (vectorOperand s ra))

end Sys2Proof.Machine
end

