-- ==== Sys2Proof/Machine/Codec.lean ====
section
/-! DEFINITION. The state codec between LCG form and RANLUX form (41_codec.md R200 to R204), and the commands `TOLCG` and `TORANLUX` (R206, R207). -/

namespace Sys2Proof.Machine

/-- `ToLCG(x, c) = x − floor(x / 2^336) + c` (41_codec.md R200). It is at most `m`, so 576 bits hold it (R201 item 2). -/
@[irreducible] def toLcg (x : Vec576) (c : BitVec 1) : Vec576 :=
  BitVec.ofNat 576 (x.toNat - (x.toNat >>> 336) + c.toNat)

/-- `Canon(X)`: the residue in `[0, m)` (41_codec.md R202). -/
@[irreducible] def canon (x : Vec576) : Vec576 :=
  if Config.modulus ≤ x.toNat then BitVec.ofNat 576 (x.toNat - Config.modulus) else x

/-- `floor(X'·2^576 / m)`, the buffer of RANLUX form (41_codec.md R203). -/
@[irreducible] def ranluxBuffer (x' : Nat) : Nat := 2 ^ 576 * x' / Config.modulus

/-- `X' − (x − floor(x / 2^336))`, the carry of RANLUX form (41_codec.md R203). -/
@[irreducible] def ranluxCarry (x' : Nat) : Nat := x' - (ranluxBuffer x' - (ranluxBuffer x' >>> 336))

/-- `ToRANLUX(X)`: buffer and carry of the canonicalized value (41_codec.md R203). -/
@[irreducible] def toRanlux (x : Vec576) : Vec576 × BitVec 1 :=
  (BitVec.ofNat 576 (ranluxBuffer (canon x).toNat), BitVec.ofNat 1 (ranluxCarry (canon x).toNat))

/-- `TOLCG vd` (41_codec.md R206). -/
def execTolcg (rd : VReg) (s : State) : Host.Outcome State Fault Refusal :=
  .next (s.writeV rd (toLcg s.state s.carry))

/-- `TORANLUX va` (41_codec.md R207). -/
def execToranlux (ra : VReg) (s : State) : Host.Outcome State Fault Refusal :=
  .next ((s.loadGenerator (toRanlux (vectorOperand s ra)) 0).setReady true)

end Sys2Proof.Machine
end

