-- ==== Sys2Proof/Machine/Generator.lean ====
section
/-! DEFINITION. The generator core: `Extract`, `Advance`, `F64Bits`, and the commands `SEED`, `ADVANCE`, `NEXT`, `SKIP`, `NEXTDBL`, `RESTORE` (42_generator.md R230 to R250). -/

namespace Sys2Proof.Machine

/-! ### Functions -/

/-- `Extract(x, o) = (x >> o) mod 2^48` (42_generator.md R230). -/
@[irreducible] def extract (x : Vec576) (o : Nat) : BitVec Config.wordBits :=
  BitVec.ofNat Config.wordBits (x.toNat >>> o)

/-- `MulMod(ToLCG(STATE, CARRY), P)` back in RANLUX form, with the new `OFFSET`: the step that `Advance` and `SKIP` share
(42_generator.md R231, R245). -/
def multiplyGenerator (p : Vec576) (o : BitVec 10) (s : State) : State :=
  s.loadGenerator (toRanlux (mulMod (toLcg s.state s.carry) p)) o

/-- `Advance()`: one block (42_generator.md R231). -/
def advance (s : State) : State := multiplyGenerator multiplierOperand 0 s

/-- The lazy `Advance` before an extraction that would overrun the block (42_generator.md R240). -/
def ensureWord (s : State) : State :=
  if Config.blockBits < s.offset.toNat + Config.wordBits then advance s else s

/-- Extract the next word, write `RES` with what `f` makes of it, and move `OFFSET` on (42_generator.md R240, R248). -/
def takeWord (f : BitVec Config.wordBits → Limb) (s : State) : State :=
  let s1 := ensureWord s
  (s1.setRes (f (extract s1.state s1.offset.toNat))).setOffset
    (BitVec.ofNat 10 (s1.offset.toNat + Config.wordBits))

/-- A word in `RES`, top bits zero (42_generator.md R240, 10_state.md R37). -/
def rawWord (w : BitVec Config.wordBits) : Limb := w.setWidth 64

/-- `F64Bits(w)`: the binary64 pattern of `w / 2^48` (42_generator.md R249). -/
@[irreducible] def f64Bits (w : BitVec Config.wordBits) : Limb :=
  if w.toNat = 0 then 0
  else
    let e := Nat.log2 w.toNat
    BitVec.ofNat 64 (((e + 975) <<< 52) ||| ((w.toNat - 2 ^ e) <<< (52 - e)))

/-- The LCG value of a seed: two warm-up stages, the seed, and the fold into the identity (42_generator.md R232). -/
@[irreducible] def seedLcg (seed : Limb) : Vec576 :=
  let t1 := powerMod multiplierOperand (BitVec.ofNat 64 (2 ^ 48))
  let t2 := powerMod t1 (BitVec.ofNat 64 (2 ^ 48))
  let t3 := powerMod t2 seed
  mulMod 1 t3

/-- `left`: the words left in the block (42_generator.md R245, R247). -/
def wordsLeft (s : State) : Nat := (Config.blockBits - s.offset.toNat) / Config.wordBits

/-- `SKIP` of `n` words: the short path within the block, or the long path over `k + 1` blocks (42_generator.md R245). -/
def skipWords (n : Nat) (s : State) : State :=
  if n < wordsLeft s then
    s.setOffset (BitVec.ofNat 10 (s.offset.toNat + Config.wordBits * n))
  else
    let n' := n - wordsLeft s
    let k := n' / Config.wordsPerBlock
    let r := n' - Config.wordsPerBlock * k
    multiplyGenerator (powerMod multiplierOperand (BitVec.ofNat 64 (k + 1)))
      (BitVec.ofNat 10 (Config.wordBits * r)) s

/-! ### Commands -/

/-- `SEED` (42_generator.md R232). -/
def execSeed (s : State) : Host.Outcome State Fault Refusal :=
  .next ((s.loadGenerator (toRanlux (seedLcg (seedOperand s))) 0).setReady true)

/-- `ADVANCE` (42_generator.md R236). -/
def execAdvance (s : State) : Host.Outcome State Fault Refusal := requireReady .advance advance s

/-- `NEXT` (42_generator.md R240, R241). -/
def execNext (s : State) : Host.Outcome State Fault Refusal := requireReady .next (takeWord rawWord) s

/-- `SKIP` (42_generator.md R245). -/
def execSkip (s : State) : Host.Outcome State Fault Refusal :=
  requireReady .skip (skipWords (countOperand s).toNat) s

/-- `NEXTDBL` (42_generator.md R248). -/
def execNextdbl (s : State) : Host.Outcome State Fault Refusal := requireReady .nextdbl (takeWord f64Bits) s

/-- `RESTORE` (42_generator.md R250). -/
def execRestore (s : State) : Host.Outcome State Fault Refusal := .next (s.setReady true)

end Sys2Proof.Machine
end

