-- ==== Sys2Proof/Machine/Dispatch.lean ====
section
/-! DEFINITION. The meaning of each command, one arm each: `execute op` of the command issue, the Ready check among it (30_encoding.md R114, R120). -/

namespace Sys2Proof.Machine

def exec (i : Instr) (s : State) : Host.Outcome State Fault Refusal :=
  match i with
  | .nop => Sys2Proof.Machine.execNop s
  | .mul ra rb => Sys2Proof.Machine.execMul ra rb s
  | .red rd => Sys2Proof.Machine.execRed rd s
  | .mulmod rd ra rb => Sys2Proof.Machine.execMulmod rd ra rb s
  | .powmod rd ra => Sys2Proof.Machine.execPowmod rd ra s
  | .lda rd => Sys2Proof.Machine.execLda rd s
  | .mov rd ra => Sys2Proof.Machine.execMov rd ra s
  | .tolcg rd => Sys2Proof.Machine.execTolcg rd s
  | .toranlux ra => Sys2Proof.Machine.execToranlux ra s
  | .seed => Sys2Proof.Machine.execSeed s
  | .advance => Sys2Proof.Machine.execAdvance s
  | .next => Sys2Proof.Machine.execNext s
  | .skip => Sys2Proof.Machine.execSkip s
  | .nextdbl => Sys2Proof.Machine.execNextdbl s
  | .restore => Sys2Proof.Machine.execRestore s

end Sys2Proof.Machine
end

