-- ==== Sys2Proof/Machine/Window.lean ====
section
/-! DEFINITION. The register window: the register map (20_memory.md R72 to R75), the value each register reads (R78), the bytes of the window (R77), and the writes to all registers but `CMD` (R80 to R83). -/

namespace Sys2Proof.Machine

/-- The registers of the map, a multi-limb register by its limbs (20_memory.md R72). -/
inductive WinReg where
  | id | cfg | ctrl | status | cmd | arg | res | offset | carry
  | state (i : Fin 9)
  | a (i : Fin 9)
  | prod (i : Fin 18)
  | v (r : VReg) (i : Fin 9)
  deriving DecidableEq, Repr

/-- The column "access" of the map (20_memory.md R72). -/
inductive Access where
  /-- RO, read-only -/
  | readOnly
  /-- WO, write-only -/
  | writeOnly
  /-- RW, read-write, every value legal -/
  | readWrite
  /-- RWC, read-write with a value check -/
  | checked
  deriving DecidableEq, Repr

/-- The column "access" of the map (20_memory.md R72, R80). -/
def WinReg.access : WinReg → Access
  | .id | .cfg | .status | .res | .a _ => .readOnly
  | .ctrl | .cmd => .writeOnly
  | .arg | .state _ | .prod _ | .v _ _ => .readWrite
  | .offset | .carry => .checked

/-- The column "offset" of the map (20_memory.md R72 to R74). -/
def WinReg.windowOffset : WinReg → Nat
  | .id => 0x000
  | .cfg => 0x008
  | .ctrl => 0x010
  | .status => 0x018
  | .cmd => 0x020
  | .arg => 0x028
  | .res => 0x030
  | .offset => 0x038
  | .carry => 0x040
  | .state i => 0x080 + 8 * i.val
  | .a i => 0x100 + 8 * i.val
  | .prod i => 0x200 + 8 * i.val
  | .v r i => 0x400 + 0x80 * r.val + 8 * i.val

/-- Limb `k` of a 9-limb register, if there is one. -/
def nineLimbs (mk : Fin 9 → WinReg) (k : Nat) : Option WinReg :=
  if h : k < 9 then some (mk ⟨k, h⟩) else none

/-- Limb `k` of `PROD`, if there is one. -/
def eighteenLimbs (k : Nat) : Option WinReg :=
  if h : k < 18 then some (.prod ⟨k, h⟩) else none

/-- The register at an 8-byte-aligned offset; none where the map says unmapped (20_memory.md R72, R75). -/
def winLookup (off : WinOff) : Option WinReg :=
  let k := off.toNat / 8
  if k < 0x10 then
    match k with
    | 0 => some .id
    | 1 => some .cfg
    | 2 => some .ctrl
    | 3 => some .status
    | 4 => some .cmd
    | 5 => some .arg
    | 6 => some .res
    | 7 => some .offset
    | 8 => some .carry
    | _ => none
  else if k < 0x20 then nineLimbs .state (k - 0x10)
  else if k < 0x40 then nineLimbs .a (k - 0x20)
  else if k < 0x80 then eighteenLimbs (k - 0x40)
  else nineLimbs (.v (Fin.ofNat 8 ((k - 0x80) / 0x10))) ((k - 0x80) % 0x10)

/-- The value a register reads (20_memory.md R78). -/
def regValue (s : State) : WinReg → Limb
  | .id => Config.idValue
  | .cfg => Config.cfgValue
  | .ctrl => 0
  | .status => statusWord s
  | .cmd => 0
  | .arg => s.arg
  | .res => s.res
  | .offset => s.offset.setWidth 64
  | .carry => s.carry.setWidth 64
  | .state i => limb s.state i.val
  | .a i => limb Config.kA i.val
  | .prod i => limb s.prod i.val
  | .v r i => limb (s.readV r) i.val

/-- The only legal access: 8 bytes at an 8-aligned offset (20_memory.md R76). -/
def legalAccess (off : WinOff) (n : Nat) : Bool := n == 8 && off.toNat % 8 == 0

/-- Byte `a` of the window, little-endian within its register; none where the window is unmapped (20_memory.md R77). -/
def windowByte (s : State) (a : WinOff) : Option (BitVec 8) :=
  (winLookup a).map fun r => (regValue s r).extractLsb' (8 * (a.toNat % 8)) 8

/-! ### Writes (20_memory.md R80 to R83) -/

/-- A `CTRL` write: bits 63:2 must be 0; soft reset wins over error clear (20_memory.md R82, 10_state.md R33). -/
def writeCtrl (v : Limb) (s : State) : State :=
  if v >>> 2 ≠ 0 then raiseError .value WinReg.ctrl.windowOffset s
  else if v.getLsbD 0 then resetBlock s
  else if v.getLsbD 1 then clearError s
  else s

/-- An `OFFSET` write: a multiple of 48, at most 576 (20_memory.md R83). -/
def writeOffset (v : Limb) (s : State) : State :=
  if v.toNat % Config.wordBits = 0 ∧ v.toNat ≤ Config.blockBits then s.setOffset (v.setWidth 10)
  else raiseError .value WinReg.offset.windowOffset s

/-- A `CARRY` write: 0 or 1 (20_memory.md R83). -/
def writeCarry (v : Limb) (s : State) : State :=
  if v.toNat ≤ 1 then s.setCarry (v.setWidth 1)
  else raiseError .value WinReg.carry.windowOffset s

/-- A write to any register but `CMD`: read-only registers first (20_memory.md R80, R85), then the register's own rule.
`CMD` stores nothing (10_state.md R35), so here it changes nothing; `busWrite` gives it its meaning. -/
def writeReg (r : WinReg) (v : Limb) (s : State) : State :=
  match r with
  | .id | .cfg | .status | .res | .a _ => raiseError .roWrite r.windowOffset s
  | .ctrl => writeCtrl v s
  | .cmd => s
  | .arg => s.setArg v
  | .offset => writeOffset v s
  | .carry => writeCarry v s
  | .state i => s.setState (setLimb s.state i.val v)
  | .prod i => s.setProd (setLimb s.prod i.val v)
  | .v r i => s.writeV r (setLimb (s.readV r) i.val v)

end Sys2Proof.Machine
end

