-- ==== Sys2Proof/Machine/Bus.lean ====
section
/-! DEFINITION. The bus: `BusRead`, `BusWrite`, the command issue, and what each bus event does (20_memory.md R78, R84, R85, 30_encoding.md R120, 70_reset_and_hazards.md R350). -/

namespace Sys2Proof.Machine

/-- `BusRead(off, n)`: a legal read has no effect on the block; an illegal one returns 0 and records an error (20_memory.md R75 to R79). -/
def busRead (off : WinOff) (n : Nat) (s : State) : State :=
  if legalAccess off n then
    match winLookup off with
    | none => (raiseError .addr off.toNat s).setResponse (some 0)
    | some r => s.setResponse (some (regValue s r))
  else (raiseError .access off.toNat s).setResponse (some 0)

/-- The error a word that names no command raises (30_encoding.md R120). -/
def decodeErrorCode : DecodeError → ErrorCode
  | .upperBits => .rsv
  | .illegalOpcode => .opc
  | .reservedField => .rsv

/-- `IssueCommand(v)`: discarded while `ERR = 1`, then the checks, then the command (30_encoding.md R120, 60_exceptions.md R304).
`ERRINFO` of a word that names no command is bits 31:0 of the write (60_exceptions.md R303). -/
def issueCommand (v : Limb) (s : State) : Host.Outcome State Fault Refusal :=
  if s.err then .next s
  else
    match decodeCommand v with
    | .error e => .next (raiseError (decodeErrorCode e) (v.toNat % 2 ^ 32) s)
    | .ok i => exec i s

/-- `BusWrite(off, n, v)`, the checks in their order (20_memory.md R85, 60_exceptions.md R306). -/
def busWrite (off : WinOff) (n : Nat) (v : Limb) (s : State) : Host.Outcome State Fault Refusal :=
  if legalAccess off n then
    match winLookup off with
    | none => .next (raiseError .addr off.toNat s)
    | some .cmd => issueCommand v s
    | some r => .next (writeReg r v s)
  else .next (raiseError .access off.toNat s)

/-- What one event does to the block (00_scope.md R8). A reset during a held `CMD` write abandons the command (70_reset_and_hazards.md
R350); after a power cycle the state is the reset state (60_exceptions.md R344); an access elsewhere changes nothing (20_memory.md R71). -/
def deliver (e : BusEvent) (s : State) : Host.Outcome State Fault Refusal :=
  match e with
  | .read off n => .next (busRead off n s)
  | .write off n v => busWrite off n v s
  | .elsewhere => .next s
  | .reset => .next (resetBlock s)
  | .abandonedCmd _ => .next (resetBlock s)
  | .powerCycle => .next (resetBlock s)

/-- The state in which the oldest pending event has been taken off the bus and nothing has been returned yet. -/
def takeEvent (rest : List BusEvent) (s : State) : State := (s.setPending rest).setResponse none

/-- The offset of `CMD` in the window (20_memory.md R72). -/
def cmdOffset : WinOff := BitVec.ofNat 11 WinReg.cmd.windowOffset

/-- The bus event that issues a command word (30_encoding.md R122). -/
def commandEvent (v : Limb) : BusEvent := .write cmdOffset 8 v

end Sys2Proof.Machine
end

