-- ==== Sys2Proof/Machine/Step.lean ====
section
/-! DEFINITION. One step: the oldest pending bus event is received (00_scope.md R8, 20_memory.md R88, R90). -/

namespace Sys2Proof.Machine

/-- One step. With no event the block does nothing (20_memory.md R90); otherwise the oldest one is delivered, and its
effects are complete when the step ends (R88, R92). -/
def step (s : State) : Host.Outcome State Fault Refusal :=
  match s.pending with
  | [] => .next s
  | e :: rest => deliver e (takeEvent rest s)

/-- `s` with the command word `w` as the next bus event: an 8-byte write to `CMD` whose bits above `nbits` are 0 (log entry 3). -/
def State.withFetchWord (s : State) (nbits w : Nat) : State :=
  s.setPending (commandEvent (BitVec.ofNat 64 (w % 2 ^ nbits)) :: s.pending)

end Sys2Proof.Machine
end

