-- ==== Sys2Proof/Machine/HostText.lean ====
section
/-! DEFINITION. What a host writes and the block never sees: the assembler syntax (30_encoding.md R121), the host program notation (R122), and the pseudo-instructions with their expansions (R123). -/

namespace Sys2Proof.Machine

/-! ### Host program notation (R122) -/

/-- `WR <reg>, <value>` (30_encoding.md R122). -/
def wr (r : WinReg) (v : Limb) : BusEvent := .write (BitVec.ofNat 11 r.windowOffset) 8 v

/-- `RD <reg>` (30_encoding.md R122). -/
def rd (r : WinReg) : BusEvent := .read (BitVec.ofNat 11 r.windowOffset) 8

/-- `CMD <command>`: `WR CMD` of the command's encoding (30_encoding.md R122). -/
def cmd (i : Instr) : BusEvent := wr .cmd ((encode i).setWidth 64)

/-! ### Pseudo-instructions (R123) -/

/-- The pseudo-instructions (30_encoding.md R123). -/
inductive Pseudo where
  | sqrmod (vd va : VReg)
  | setarg (x : Limb)
  | powmodi (vd va : VReg) (e : Limb)
  | seedi (s : Limb)
  | skipi (n : Limb)
  | ldv (r : VReg) (x : Vec576)
  | stv (r : VReg)
  | ldp (x : Vec1152)
  | save
  | load (s : Vec576) (c o : Limb)
  | eclr
  | srst
  deriving DecidableEq, Repr

/-- `WR X.limb[i], limb_i(x)` for every limb `i`, lowest first (30_encoding.md R123). -/
def wrLimbs {n w : Nat} (reg : Fin n → WinReg) (x : BitVec w) : List BusEvent :=
  (List.finRange n).map fun i => wr (reg i) (limb x i.val)

/-- `RD X.limb[i]` for every limb `i`, lowest first (30_encoding.md R123). -/
def rdLimbs {n : Nat} (reg : Fin n → WinReg) : List BusEvent :=
  (List.finRange n).map fun i => rd (reg i)

/-- The transactions of a pseudo-instruction, in order (30_encoding.md R123). -/
def Pseudo.expand : Pseudo → List BusEvent
  | .sqrmod vd va => [cmd (.mulmod vd va va)]
  | .setarg x => [wr .arg x]
  | .powmodi vd va e => [wr .arg e, cmd (.powmod vd va)]
  | .seedi s => [wr .arg s, cmd .seed]
  | .skipi n => [wr .arg n, cmd .skip]
  | .ldv r x => wrLimbs (.v r) x
  | .stv r => rdLimbs (.v r)
  | .ldp x => wrLimbs .prod x
  | .save => rdLimbs .state ++ [rd .carry, rd .offset]
  | .load s c o => wrLimbs .state s ++ [wr .carry c, wr .offset o, cmd .restore]
  | .eclr => [wr .ctrl 2]
  | .srst => [wr .ctrl 1]

/-- `Σ result_i · 2^(64i)`, the value that the reads of `STV` give the host (30_encoding.md R123, 00_scope.md R17). -/
def valueOfLimbs : List Limb → Nat
  | [] => 0
  | l :: ls => l.toNat + valueOfLimbs ls * 2 ^ 64

/-! ### Assembler syntax (R121) -/

/-- The lower-case mnemonic of an opcode (30_encoding.md R121). -/
def opcodeText : Opcode → List Char
  | .nop => ['n', 'o', 'p']
  | .mul => ['m', 'u', 'l']
  | .red => ['r', 'e', 'd']
  | .mulmod => ['m', 'u', 'l', 'm', 'o', 'd']
  | .powmod => ['p', 'o', 'w', 'm', 'o', 'd']
  | .lda => ['l', 'd', 'a']
  | .mov => ['m', 'o', 'v']
  | .tolcg => ['t', 'o', 'l', 'c', 'g']
  | .toranlux => ['t', 'o', 'r', 'a', 'n', 'l', 'u', 'x']
  | .seed => ['s', 'e', 'e', 'd']
  | .advance => ['a', 'd', 'v', 'a', 'n', 'c', 'e']
  | .next => ['n', 'e', 'x', 't']
  | .skip => ['s', 'k', 'i', 'p']
  | .nextdbl => ['n', 'e', 'x', 't', 'd', 'b', 'l']
  | .restore => ['r', 'e', 's', 't', 'o', 'r', 'e']

/-- The name of a vector register, `v0` to `v7` (30_encoding.md R121). -/
def vregText (r : VReg) : List Char := ['v', Char.ofNat (48 + r.val)]

/-- The register a name stands for, in either case (30_encoding.md R121). -/
def parseVreg : List Char → Option VReg
  | ['v', d] => if h : 48 ≤ d.toNat ∧ d.toNat - 48 < 8 then some ⟨d.toNat - 48, h.2⟩ else none
  | _ => none

/-- The operands of a command, destination first (30_encoding.md R121). -/
def operandsOf : Instr → List VReg
  | .nop => []
  | .mul ra rb => [ra, rb]
  | .red rd => [rd]
  | .mulmod rd ra rb => [rd, ra, rb]
  | .powmod rd ra => [rd, ra]
  | .lda rd => [rd]
  | .mov rd ra => [rd, ra]
  | .tolcg rd => [rd]
  | .toranlux ra => [ra]
  | .seed => []
  | .advance => []
  | .next => []
  | .skip => []
  | .nextdbl => []
  | .restore => []

/-- A command as a line of assembler, in lower case (30_encoding.md R121). -/
def asmText (i : Instr) : List Char :=
  opcodeText i.opcode ++
    match (operandsOf i).map vregText with
    | [] => []
    | [a] => ' ' :: a
    | a :: rest => ' ' :: (a ++ (rest.map fun b => ',' :: ' ' :: b).flatten)

/-- The command of an opcode name and its operands, destination first (30_encoding.md R121). -/
def assemble (op : Opcode) (rs : List VReg) : Option Instr :=
  match op, rs with
  | .nop, [] => some .nop
  | .mul, [ra, rb] => some (.mul ra rb)
  | .red, [rd] => some (.red rd)
  | .mulmod, [rd, ra, rb] => some (.mulmod rd ra rb)
  | .powmod, [rd, ra] => some (.powmod rd ra)
  | .lda, [rd] => some (.lda rd)
  | .mov, [rd, ra] => some (.mov rd ra)
  | .tolcg, [rd] => some (.tolcg rd)
  | .toranlux, [ra] => some (.toranlux ra)
  | .seed, [] => some .seed
  | .advance, [] => some .advance
  | .next, [] => some .next
  | .skip, [] => some .skip
  | .nextdbl, [] => some .nextdbl
  | .restore, [] => some .restore
  | _, _ => none

/-- The pieces of a text between commas. -/
def splitCommas : List Char → List (List Char)
  | [] => [[]]
  | c :: cs =>
    match splitCommas cs with
    | [] => [[c]]
    | p :: ps => if c = ',' then [] :: p :: ps else (c :: p) :: ps

/-- A text without the blanks at its ends (DESIGN CHOICE, log entry 14: R121 does not speak of blanks). -/
def trimBlanks (cs : List Char) : List Char :=
  ((cs.dropWhile (· == ' ')).reverse.dropWhile (· == ' ')).reverse

/-- The command of a line of assembler, upper and lower case alike (30_encoding.md R121). -/
def parseAsm (line : List Char) : Option Instr :=
  let cs := trimBlanks (line.map Char.toLower)
  let name := cs.takeWhile (· ≠ ' ')
  let rest := trimBlanks (cs.drop name.length)
  match Opcode.all.find? (fun op => opcodeText op == name) with
  | none => none
  | some op =>
    if rest = [] then assemble op []
    else
      match (splitCommas rest).mapM (fun p => parseVreg (trimBlanks p)) with
      | none => none
      | some rs => assemble op rs

end Sys2Proof.Machine
end

