-- ==== Sys2Proof/Machine/LegacyRanlux.lean ====
section
/-! DEFINITION. The legacy subtract-with-borrow generator on RANLUX form, which the codec and `A` correspond to (41_codec.md R205, informative). No command uses it; statements compare the codec with it. -/

namespace Sys2Proof.Machine

/-- `d_i`: word `i` of 24 bits of the buffer, `d_0` the oldest (41_codec.md R205). -/
def legacyWord (x : Vec576) (i : Nat) : Nat := (x.toNat >>> (24 * i)) % 2 ^ 24

/-- `t = d_14 − d_0 − c` (41_codec.md R205). -/
def legacyDifference (x : Vec576) (c : BitVec 1) : Int :=
  (legacyWord x 14 : Int) - (legacyWord x 0 : Int) - (c.toNat : Int)

/-- One subtract-with-borrow step: the words shift down by one, `t mod 2^24` becomes `d_23`, and the carry is the borrow (41_codec.md R205). -/
@[irreducible] def legacyStep (p : Vec576 × BitVec 1) : Vec576 × BitVec 1 :=
  let t := legacyDifference p.1 p.2
  (BitVec.ofNat 576 (p.1.toNat / 2 ^ 24 + 2 ^ 552 * (t % 2 ^ 24).toNat),
   if t < 0 then 1 else 0)

/-- `n` steps of the legacy generator. -/
def legacySteps : Nat → Vec576 × BitVec 1 → Vec576 × BitVec 1
  | 0, p => p
  | n + 1, p => legacySteps n (legacyStep p)

/-- `a = m − (m − 1)/2^24`, the multiplier of one legacy step (10_state.md R40, 41_codec.md R205). -/
@[irreducible] def legacyMultiplier : Nat := Config.modulus - (Config.modulus - 1) / 2 ^ 24

end Sys2Proof.Machine
end

