-- ==== Sys2Proof/Machine/Platform.lean ====
section
/-! DEFINITION. The platform around the block: windows at their base addresses and several instances. `BASE` and `NINST`, which the spec leaves OPEN, are arguments here (00_scope.md R13, 20_memory.md R71, 60_exceptions.md R342). -/

namespace Sys2Proof.Machine

/-- An access on the platform's bus, by its address. -/
inductive BusRequest where
  | read (addr n : Nat)
  | write (addr n : Nat) (v : Limb)
  deriving DecidableEq, Repr

/-- The window offset of an address for a window placed at `base`; none outside `[base, base + 0x800)` (20_memory.md R71). -/
def route (base addr : Nat) : Option WinOff :=
  if base ≤ addr ∧ addr < base + Config.windowBytes then some (BitVec.ofNat 11 (addr - base)) else none

/-- What an access is to the instance whose window is at `base` (20_memory.md R71). -/
def BusRequest.eventAt (base : Nat) : BusRequest → BusEvent
  | .read addr n =>
    match route base addr with
    | some off => .read off n
    | none => .elsewhere
  | .write addr n v =>
    match route base addr with
    | some off => .write off n v
    | none => .elsewhere

/-- One instance: the base address of its window and all of its own state (60_exceptions.md R342). -/
structure PlacedBlock where
  base : Nat
  state : State
  deriving DecidableEq, Repr

/-- The platform's instances; their number is `NINST` (00_scope.md R13). -/
abbrev Platform := List PlacedBlock

/-- The bus carries an access to every instance, behind what it has not received yet: one ordered stream (20_memory.md R88, R91). -/
def Platform.request (q : BusRequest) (p : Platform) : Platform :=
  p.map fun b => { b with state := b.state.setPending (b.state.pending ++ [q.eventAt b.base]) }

/-- The state after a step; a block never stops, so a step always gives one. -/
def afterStep (s : State) : State :=
  match step s with
  | .next t => t
  | .fault _ => s
  | .refused _ => s

/-- Every instance takes one step of its own. -/
def Platform.stepAll (p : Platform) : Platform :=
  p.map fun b => { b with state := afterStep b.state }

end Sys2Proof.Machine
end

