-- ==== Sys2Proof/Safety.lean ====
section
/-! DEFINITION. What a good state of the block is, in the terms statements use: the invariants the spec says always hold (10_state.md R45, R49, 60_exceptions.md R301, R303), when two states agree on the block's own registers, and the spec's integer formulas written without the machine's functions. -/

namespace Sys2Proof.Machine

/-! ### Invariants -/

/-- `OFFSET mod 48 = 0` and `OFFSET ≤ 576` (10_state.md R45). -/
abbrev OffsetLegal (s : State) : Prop :=
  s.offset.toNat % 48 = 0 ∧ s.offset.toNat ≤ 576

/-- Without an error the record is `E_NONE` with information 0; with one its code is 1 to 7, and the information of a bus
error is a window offset (60_exceptions.md R301, R303). -/
abbrev ErrorRecordLegal (s : State) : Prop :=
  (s.err = false → s.errCode = 0 ∧ s.errInfo = 0) ∧
    (s.err = true → 1 ≤ s.errCode.toNat ∧ s.errCode.toNat ≤ 7) ∧
    (4 ≤ s.errCode.toNat → s.errInfo.toNat < 0x800)

/-- The invariant of the block. -/
abbrev Inv (s : State) : Prop := OffsetLegal s ∧ ErrorRecordLegal s

/-- A run is safe while no error is recorded (60_exceptions.md R300). -/
abbrev NoError (s : State) : Prop := s.err = false

/-! ### Comparing states -/

/-- Two states agree on every register of the block; the model's own fields may differ. -/
abbrev SameBlock (s t : State) : Prop :=
  (t.setPending s.pending).setResponse s.response = s

/-- The generator's persisted triple (10_state.md R46). -/
def triple (s : State) : Vec576 × BitVec 1 × BitVec 10 := (s.state, s.carry, s.offset)

/-- The events that reset the block: the external reset, alone or during a held `CMD` write, a power cycle, and a `CTRL`
write of 1 or 3 (70_reset_and_hazards.md R350, R351, 60_exceptions.md R344). -/
def isReset (e : BusEvent) : Prop :=
  e = .reset ∨ (∃ v, e = .abandonedCmd v) ∨ e = .powerCycle ∨ e = wr .ctrl 1 ∨ e = wr .ctrl 3

/-! ### The spec's integer formulas -/

/-- The fold loop of 40_arith.md R142, started at `x`, ends at `y` after at most 3 passes (R143 item 4). -/
def FoldsTo (x y : Nat) : Prop :=
  ∃ k ≤ 3, y = (fun z => z % 2 ^ 576 + (2 ^ 240 - 1) * (z / 2 ^ 576))^[k] x ∧ y < 2 ^ 576 ∧
    ∀ j < k, 2 ^ 576 ≤ (fun z => z % 2 ^ 576 + (2 ^ 240 - 1) * (z / 2 ^ 576))^[j] x

/-- The square-and-multiply loop of 40_arith.md R145 takes the base `b` and the 64-bit exponent `e` to `y`: 64 rounds from 1, bit 63
first; a round is the fold of `r·r` and, on a set bit, the fold of that times `b`. `r i` is the value before round `i`. -/
def PowersTo (b e y : Nat) : Prop :=
  ∃ r : Nat → Nat, r 0 = 1 ∧ r 64 = y ∧
    ∀ i < 64, ∃ sq, FoldsTo (r i * r i) sq ∧
      (if e / 2 ^ (63 - i) % 2 = 1 then FoldsTo (sq * b) (r (i + 1)) else r (i + 1) = sq)

/-- `x − floor(x / 2^336) + c` of the generator state (41_codec.md R200). -/
@[irreducible] def lcgValue (s : State) : Nat := s.state.toNat - s.state.toNat / 2 ^ 336 + s.carry.toNat

/-- Buffer and carry of the residue of `n`: `X' = n mod m`, `x = floor(X'·2^576 / m)`, `c = X' − (x − floor(x / 2^336))` (41_codec.md R203). -/
@[irreducible] def ranluxForm (n : Nat) : Vec576 × BitVec 1 :=
  let x' := n % Config.modulus
  let x := 2 ^ 576 * x' / Config.modulus
  (BitVec.ofNat 576 x, BitVec.ofNat 1 (x' - (x - x / 2 ^ 336)))

/-- `n` commands `NEXT`, one after the other (42_generator.md R246). -/
def repeatNext : Nat → State → Host.Outcome State Fault Refusal
  | 0, s => .next s
  | n + 1, s =>
    match exec .next s with
    | .next t => repeatNext n t
    | .fault f => .fault f
    | .refused r => .refused r

/-- `Σ byte_k · 2^(8k)` over `n` bytes of the window from `base` on; an unmapped byte counts as 0 (20_memory.md R77). -/
def bytesValue (s : State) (base : Nat) : Nat → Nat
  | 0 => 0
  | n + 1 =>
    ((windowByte s (BitVec.ofNat 11 base)).getD 0).toNat + 2 ^ 8 * bytesValue s (base + 1) n

end Sys2Proof.Machine
end

