-- ==== Sys2Proof/Certificates/Slice0/Obligations.lean ====
section
/-! DEFINITION. The statements for the provers. Each formalises or rests on numbered rules of spec/, named in its docstring. A step that starts from `s.setPending (e :: rest)` receives the event `e`; `takeEvent rest s` is that state with `e` taken off the bus and nothing returned yet (the model's own fields, log entries 1 and 2). -/

open Sys2Proof Sys2Proof.Machine

/-! ### Encoding -/

/-- Decode of encode is the command, for every command and every register (30_encoding.md R111, R114, R117). -/
def Obligations.DecodeOfEncodeIsTheCommand : Prop :=
  ∀ i : Instr, decode (encode i) = .ok i ∧
    decodeCommand ((encode i).setWidth 64) = .ok i ∧
    decodeTableWord 32 (encode i).toNat = some i

/-- A word the decoder accepts is the one encoding of its command, and no word matches two rows of the table. These are the spec's
own inferences (30_encoding.md R117, "each legal command has exactly one encoding", and R115, "No two rows match the same word"). -/
def Obligations.DecodedWordIsTheEncoding : Prop :=
  (∀ (v : Limb) (i : Instr), decodeCommand v = .ok i → v = (encode i).setWidth 64) ∧
  (∀ (w : CmdWord) (op op' : Opcode), w &&& op.maskWord = op.matchWord →
    w &&& op'.maskWord = op'.matchWord → op = op') ∧
  (∀ op op' : Opcode, op.matchWord.setWidth 8 = op'.matchWord.setWidth 8 → op = op') ∧
  (∀ op : Opcode, op.maskWord.setWidth 8 = 0xFF#8)

/-- 30_encoding.md R115: a word selects the command of a row exactly when `w & mask = match`, with the match and mask words and
the register fields of the table. -/
def Obligations.MaskAndMatchSelectTheCommand : Prop :=
  (∀ (w : CmdWord) (op : Opcode),
    (∃ i, decode w = .ok i ∧ i.opcode = op) ↔ w &&& op.maskWord = op.matchWord) ∧
  (∀ (w : CmdWord) (op : Opcode), w &&& op.maskWord = op.matchWord →
    decode w = .ok (op.build (w.extractLsb' 8 3).toFin (w.extractLsb' 12 3).toFin (w.extractLsb' 16 3).toFin)) ∧
  Opcode.all.map Opcode.matchWord =
    [0x00000000#32, 0x00000001#32, 0x00000002#32, 0x00000003#32, 0x00000004#32, 0x00000005#32, 0x00000006#32,
      0x00000008#32, 0x00000009#32, 0x00000010#32, 0x00000011#32, 0x00000012#32, 0x00000013#32, 0x00000014#32,
      0x00000015#32] ∧
  Opcode.all.map Opcode.maskWord =
    [0xFFFFFFFF#32, 0xFFF88FFF#32, 0xFFFFF8FF#32, 0xFFF888FF#32, 0xFFFF88FF#32, 0xFFFFF8FF#32, 0xFFFF88FF#32,
      0xFFFFF8FF#32, 0xFFFF8FFF#32, 0xFFFFFFFF#32, 0xFFFFFFFF#32, 0xFFFFFFFF#32, 0xFFFFFFFF#32, 0xFFFFFFFF#32,
      0xFFFFFFFF#32]

/-- A few words of the spec's encoding vectors decode to the commands they stand for (95_test_vectors.md section 2). -/
def Obligations.SpecWordsDecode : Prop :=
  decode 0x00000000#32 = .ok .nop ∧
  decode 0x00021001#32 = .ok (.mul 1 2) ∧
  decode 0x00000302#32 = .ok (.red 3) ∧
  decode 0x00032103#32 = .ok (.mulmod 1 2 3) ∧
  decode 0x00001104#32 = .ok (.powmod 1 1) ∧
  decode 0x00001306#32 = .ok (.mov 3 1) ∧
  decode 0x00005009#32 = .ok (.toranlux 5) ∧
  decode 0x00000012#32 = .ok .next

/-- 30_encoding.md R116: the illegal opcodes are 0x07, 0x0A to 0x0F and 0x16 to 0xFF; a command word with one raises
`E_OPC` with the word as information and has no other effect. -/
def Obligations.IllegalOpcodesRaiseOpc : Prop :=
  (∀ b : BitVec 8, (∀ op : Opcode, op.byte ≠ b) ↔
    b.toNat = 0x07 ∨ (0x0A ≤ b.toNat ∧ b.toNat ≤ 0x0F) ∨ 0x16 ≤ b.toNat) ∧
  (∀ (s : State) (rest : List BusEvent) (w : CmdWord), s.err = false →
    (∀ op : Opcode, op.byte ≠ w.setWidth 8) →
    step (s.setPending (commandEvent (w.setWidth 64) :: rest)) =
      .next { takeEvent rest s with err := true, errCode := 1, errInfo := w })

/-- 30_encoding.md R117: with a legal opcode, a set bit among bits 63:32, `Z0`, `Z1`, `Z2` or an unused field raises `E_RSV`
with bits 31:0 of the write as information and has no other effect. -/
def Obligations.ReservedBitsRaiseRsv : Prop :=
  ∀ (s : State) (rest : List BusEvent) (v : Limb) (op : Opcode), s.err = false →
    op.byte = v.setWidth 8 →
    (v.extractLsb' 32 32 ≠ 0 ∨ v.getLsbD 11 = true ∨ v.getLsbD 15 = true ∨ v.extractLsb' 19 13 ≠ 0 ∨
      (op.use.rd = false ∧ v.extractLsb' 8 3 ≠ 0) ∨ (op.use.ra = false ∧ v.extractLsb' 12 3 ≠ 0) ∨
      (op.use.rb = false ∧ v.extractLsb' 16 3 ≠ 0)) →
    step (s.setPending (commandEvent v :: rest)) =
      .next { takeEvent rest s with err := true, errCode := 2, errInfo := v.setWidth 32 }

/-- 30_encoding.md R120: the checks of a `CMD` write, in their order, and the command with its registers when all pass. -/
def Obligations.CommandChecksRunInOrder : Prop :=
  ∀ (s : State) (rest : List BusEvent) (v : Limb),
    let w : CmdWord := v.setWidth 32
    let t := takeEvent rest s
    let after := step (s.setPending (commandEvent v :: rest))
    (s.err = true → after = .next t) ∧
    (s.err = false →
      (v >>> 32 ≠ 0 → after = .next { t with err := true, errCode := 2, errInfo := w }) ∧
      (v >>> 32 = 0 →
        ((∀ op : Opcode, op.byte ≠ w.setWidth 8) →
          after = .next { t with err := true, errCode := 1, errInfo := w }) ∧
        (∀ op : Opcode, op.byte = w.setWidth 8 →
          let bad := w.getLsbD 11 = true ∨ w.getLsbD 15 = true ∨ w >>> 19 ≠ 0 ∨
            (op.use.rd = false ∧ w.extractLsb' 8 3 ≠ 0) ∨
            (op.use.ra = false ∧ w.extractLsb' 12 3 ≠ 0) ∨
            (op.use.rb = false ∧ w.extractLsb' 16 3 ≠ 0)
          (bad → after = .next { t with err := true, errCode := 2, errInfo := w }) ∧
          (¬ bad → op.needsReady = true → s.ready = false →
            after = .next { t with err := true, errCode := 3, errInfo := w }) ∧
          (¬ bad → (op.needsReady = true → s.ready = true) →
            after = exec (op.build (w.extractLsb' 8 3).toFin (w.extractLsb' 12 3).toFin
              (w.extractLsb' 16 3).toFin) t))))

/-- Reading an assembler line gives back the command it was written from (30_encoding.md R121). -/
def Obligations.AssemblerTextReadsBack : Prop :=
  ∀ i : Instr, parseAsm (asmText i) = some i ∧ parseAsm ((asmText i).map Char.toUpper) = some i

/-! ### Steps -/

/-- A step runs the decoded command: when the next bus event writes a word that decodes to `i` to `CMD` and no error is
recorded, the step is `exec i` at the state with that event taken off the bus; so too for a word placed by `withFetchWord`. -/
def Obligations.StepRunsTheDecodedCommand : Prop :=
  (∀ (s : State) (rest : List BusEvent) (v : Limb) (i : Instr), s.err = false →
    decodeCommand v = .ok i →
    step (s.setPending (commandEvent v :: rest)) = exec i (takeEvent rest s)) ∧
  (∀ (s : State) (w : Nat) (i : Instr), s.err = false → decodeTableWord 32 w = some i →
    step (s.withFetchWord 32 w) = exec i (takeEvent s.pending s))

/-- Every step and every command completes, in every state: a step takes exactly one event off the bus, and with none it changes
nothing; a command takes none (20_memory.md R88, R90, R92, 60_exceptions.md R300, R307; log entry 5 for the model's own fields). -/
def Obligations.EveryStepAndCommandCompletes : Prop :=
  (∀ s : State, ∃ t : State, step s = .next t ∧ t.pending = s.pending.tail ∧ (s.pending = [] → t = s)) ∧
  (∀ (i : Instr) (s : State), ∃ t : State, exec i s = .next t ∧ t.pending = s.pending ∧ t.response = s.response)

/-! ### What commands write -/

/-- The frame of every command: which commands can write which register (30_encoding.md R114, 10_state.md R36, R37, R39, R42 to R45, R49). -/
def Obligations.CommandsWriteOnlyTheirDestinations : Prop :=
  ∀ (i : Instr) (s t : State), exec i s = .next t →
    t.arg = s.arg ∧
    (i.opcode ≠ .mul → t.prod = s.prod) ∧
    (i.opcode ≠ .next → i.opcode ≠ .nextdbl → t.res = s.res) ∧
    (∀ r : VReg, i ≠ .red r → (∀ ra rb, i ≠ .mulmod r ra rb) → (∀ ra, i ≠ .powmod r ra) → i ≠ .lda r →
      (∀ ra, i ≠ .mov r ra) → i ≠ .tolcg r → t.vreg[r.val] = s.vreg[r.val]) ∧
    (i.opcode ∉ [.toranlux, .seed, .advance, .next, .skip, .nextdbl] → triple t = triple s) ∧
    (i.opcode ∉ [.toranlux, .seed, .restore] → t.ready = s.ready) ∧
    (i.opcode ∈ [.toranlux, .seed, .restore] → t.ready = true) ∧
    ((i.opcode.needsReady = true → s.ready = true) →
      t.err = s.err ∧ t.errCode = s.errCode ∧ t.errInfo = s.errInfo)

/-! ### The arithmetic kernel -/

/-- The five properties of `Reduce` that 40_arith.md R143 infers from its fold loop ("Properties of `Reduce` that a model may rely on"). -/
def Obligations.ReduceProperties : Prop :=
  (∀ x : Vec1152,
    foldLoop 3 x.toNat < 2 ^ 576 ∧ (reduce x).toNat = foldLoop 3 x.toNat ∧
    (reduce x).toNat % Config.modulus = x.toNat % Config.modulus ∧
    (x.toNat < 2 ^ 576 → (reduce x).toNat = x.toNat) ∧
    FoldsTo x.toNat (reduce x).toNat ∧
    (let y1 := foldPass x.toNat
     let y2 := foldPass y1
     y1 ≤ (2 ^ 576 - 1) * 2 ^ 240 ∧ y1 >>> 576 ≤ 2 ^ 240 - 1 ∧
     y2 < 2 ^ 576 + 2 ^ 480 ∧ y2 >>> 576 ≤ 1 ∧
     (2 ^ 576 ≤ y2 → y2 % 2 ^ 576 < 2 ^ 480 ∧ foldPass y2 < 2 ^ 480 + 2 ^ 240)) ∧
    (Config.modulus ≤ (reduce x).toNat ↔
      (reduce x).toNat = x.toNat % Config.modulus + Config.modulus) ∧
    (Config.modulus ≤ (reduce x).toNat → x.toNat % Config.modulus < 2 ^ 240 - 1)) ∧
  reduce (BitVec.ofNat 1152 Config.modulus) = BitVec.ofNat 576 Config.modulus ∧
  reduce (BitVec.ofNat 1152 (2 ^ 576 - 1)) = BitVec.ofNat 576 (2 ^ 576 - 1) ∧
  reduce (BitVec.ofNat 1152 ((Config.modulus - 1) ^ 2)) = BitVec.ofNat 576 (Config.modulus + 1) ∧
  2 ^ 576 ≤ foldPass (foldPass (2 ^ 1152 - 1))

/-- `MulMod` is `Reduce` of `Multiply`; it commutes, multiplies by 1 exactly, and gives the product mod `m`, as the spec infers
(40_arith.md R144, "because the products are equal", and R143). -/
def Obligations.MulModProperties : Prop :=
  ∀ a b : Vec576, FoldsTo (a.toNat * b.toNat) (mulMod a b).toNat ∧ mulMod a b = mulMod b a ∧ mulMod a 1 = a ∧
    (mulMod a b).toNat % Config.modulus = a.toNat * b.toNat % Config.modulus

/-- `PowerMod` is the loop of 40_arith.md R145, 64 rounds from bit 63, which fixes its representative; and the properties R145 infers
("Derived properties"): the power mod `m`; exponents 0 and 1; exact while the power fits; leading zero bits of the exponent may be skipped. -/
def Obligations.PowerModProperties : Prop :=
  ∀ (b : Vec576) (e : Limb),
    PowersTo b.toNat e.toNat (powerMod b e).toNat ∧
    (powerMod b e).toNat % Config.modulus = b.toNat ^ e.toNat % Config.modulus ∧
    powerMod b 0 = 1 ∧ powerMod b 1 = b ∧
    (b.toNat ^ e.toNat < 2 ^ 576 → (powerMod b e).toNat = b.toNat ^ e.toNat) ∧
    (∀ n ≤ 64, e.toNat < 2 ^ n → powerLoop b e n 1 = powerMod b e)

/-- `NOP`, `LDA` and `MOV` complete in every state with their whole effect (40_arith.md R146, R151, R152). -/
def Obligations.NopLdaMovEffects : Prop :=
  (encode .nop = 0x00000000#32 ∧ ∀ s : State, exec .nop s = .next s) ∧
  (∀ (rd : VReg) (s : State), encode (.lda rd) &&& 0xFFFFF8FF#32 = 0x00000005#32 ∧
    exec (.lda rd) s = .next { s with vreg := s.vreg.set rd.val (BitVec.ofNat 576
      (legacyMultiplier ^ 2048 % Config.modulus)) }) ∧
  (∀ (rd ra : VReg) (s : State), encode (.mov rd ra) &&& 0xFFFF88FF#32 = 0x00000006#32 ∧
    exec (.mov rd ra) s = .next { s with vreg := s.vreg.set rd.val s.vreg[ra.val] })

/-- 40_arith.md R147: `MUL` completes in every state; `PROD` becomes the exact product, nothing else changes, nothing is lost. -/
def Obligations.MulWritesTheExactProduct : Prop :=
  ∀ (ra rb : VReg) (s : State),
    encode (.mul ra rb) &&& 0xFFF88FFF#32 = 0x00000001#32 ∧
    ∃ p : Vec1152, p.toNat = s.vreg[ra.val].toNat * s.vreg[rb.val].toNat ∧
      exec (.mul ra rb) s = .next { s with prod := p }

/-- 40_arith.md R148: `RED` completes in every state; `V[rd]` becomes what the fold loop makes of `PROD`, nothing else changes. -/
def Obligations.RedWritesTheFoldedProduct : Prop :=
  ∀ (rd : VReg) (s : State),
    encode (.red rd) &&& 0xFFFFF8FF#32 = 0x00000002#32 ∧
    ∃ y : Vec576, FoldsTo s.prod.toNat y.toNat ∧
      exec (.red rd) s = .next { s with vreg := s.vreg.set rd.val y }

/-- 40_arith.md R149: `MULMOD` completes in every state; `V[rd]` becomes the folded product of the old sources, and `PROD`
is unchanged, as is all else. -/
def Obligations.MulmodWritesTheFoldedProduct : Prop :=
  ∀ (rd ra rb : VReg) (s : State),
    encode (.mulmod rd ra rb) &&& 0xFFF888FF#32 = 0x00000003#32 ∧
    ∃ y : Vec576, FoldsTo (s.vreg[ra.val].toNat * s.vreg[rb.val].toNat) y.toNat ∧
      exec (.mulmod rd ra rb) s = .next { s with vreg := s.vreg.set rd.val y }

/-- `POWMOD` completes in every state; `V[rd]` becomes the representative of `V[ra]^ARG` that the loop of R145 ends with: 1 for `ARG = 0`, `V[ra]` itself for
`ARG = 1`, the exact power where it fits; nothing else changes (40_arith.md R150, with the properties R145 infers). -/
def Obligations.PowmodWritesThePower : Prop :=
  ∀ (rd ra : VReg) (s : State),
    encode (.powmod rd ra) &&& 0xFFFF88FF#32 = 0x00000004#32 ∧
    ∃ y : Vec576,
      y = powerMod s.vreg[ra.val] s.arg ∧ PowersTo s.vreg[ra.val].toNat s.arg.toNat y.toNat ∧
      y.toNat % Config.modulus = s.vreg[ra.val].toNat ^ s.arg.toNat % Config.modulus ∧
      (s.arg = 0 → y = 1) ∧ (s.arg = 1 → y = s.vreg[ra.val]) ∧
      (s.vreg[ra.val].toNat ^ s.arg.toNat < 2 ^ 576 → y.toNat = s.vreg[ra.val].toNat ^ s.arg.toNat) ∧
      exec (.powmod rd ra) s = .next { s with vreg := s.vreg.set rd.val y }

/-! ### The codec -/

/-- The facts 41_codec.md R201 infers ("Facts about `ToLCG`"): `ToLCG` is total and exact in 576 bits, at most `m`, equal to `m` only for all ones with carry 1,
non-decreasing, equal at a multiple of `2^336` and its predecessor, and 0 and 1 on the two smallest pairs. -/
def Obligations.ToLcgFacts : Prop :=
  (∀ (x : Vec576) (c : BitVec 1),
    (toLcg x c).toNat = x.toNat - x.toNat / 2 ^ 336 + c.toNat ∧
    (toLcg x c).toNat ≤ Config.modulus ∧
    ((toLcg x c).toNat = Config.modulus ↔ x.toNat = 2 ^ 576 - 1 ∧ c = 1)) ∧
  (toLcg (BitVec.allOnes 576) 0).toNat = Config.modulus - 1 ∧
  (∀ x y : Nat, x ≤ y → x - x / 2 ^ 336 ≤ y - y / 2 ^ 336) ∧
  (∀ x : Nat, 2 ^ 336 ∣ x + 1 → x - x / 2 ^ 336 = (x + 1) - (x + 1) / 2 ^ 336) ∧
  toLcg (BitVec.ofNat 576 (2 ^ 336)) 0 = BitVec.ofNat 576 (2 ^ 336 - 1) ∧
  toLcg (BitVec.ofNat 576 (2 ^ 336 - 1)) 0 = BitVec.ofNat 576 (2 ^ 336 - 1) ∧
  toLcg 0 0 = 0 ∧ toLcg 0 1 = 1

/-- `Canon` gives the residue in `[0, m)` by at most one subtraction (41_codec.md R202). -/
def Obligations.CanonIsTheResidue : Prop :=
  2 ^ 576 < 2 * Config.modulus ∧
  ∀ x : Vec576, (canon x).toNat = x.toNat % Config.modulus ∧
    (canon x).toNat = (if Config.modulus ≤ x.toNat then x.toNat - Config.modulus else x.toNat)

/-- `ToRANLUX` as integers, without truncation: the buffer is below `2^576` and the carry is 0 or 1 (41_codec.md R203). -/
def Obligations.ToRanluxValues : Prop :=
  ∀ x : Vec576,
    let x' := x.toNat % Config.modulus
    let buf := 2 ^ 576 * x' / Config.modulus
    (toRanlux x).1.toNat = buf ∧
    (((toRanlux x).2.toNat : Nat) : Int) = (x' : Int) - ((buf : Int) - (buf / 2 ^ 336 : Nat))

/-- The codec laws that 41_codec.md R204 infers ("The codec laws, on which the rest of the spec relies"): round trip, congruence, image, not the identity on bits, small values fixed. -/
def Obligations.CodecLaws : Prop :=
  (∀ x : Vec576,
    toLcg (toRanlux x).1 (toRanlux x).2 = canon x ∧
    (toLcg (toRanlux x).1 (toRanlux x).2).toNat % Config.modulus = x.toNat % Config.modulus ∧
    toRanlux (toLcg (toRanlux x).1 (toRanlux x).2) = toRanlux x) ∧
  (∀ x y : Vec576, x.toNat < Config.modulus → y.toNat < Config.modulus → toRanlux x = toRanlux y → x = y) ∧
  (∀ x : Vec576, x.toNat < Config.modulus → toLcg (toRanlux x).1 (toRanlux x).2 = x) ∧
  toRanlux (toLcg (BitVec.allOnes 576) 1) = (0, 0) ∧
  toRanlux (BitVec.ofNat 576 (Config.modulus - 1)) = (BitVec.ofNat 576 (2 ^ 576 - 2), 1) ∧
  (∀ x : Vec576, x.toNat < 2 ^ 336 → toRanlux x = (x, 0)) ∧
  toRanlux (BitVec.ofNat 576 (2 ^ 336)) = (BitVec.ofNat 576 (2 ^ 336), 1)

/-- The codec is the legacy subtract-with-borrow generator in another form (41_codec.md R205, which marks it informative and
checked numerically): one legacy step is one multiplication by `a`, 2048 steps are one multiplication by `A`, on every residue. -/
def Obligations.LegacyStepIsMultiplication : Prop :=
  ∀ x : Nat, x < Config.modulus →
    legacyStep (toRanlux (BitVec.ofNat 576 x)) =
      toRanlux (BitVec.ofNat 576 (legacyMultiplier * x % Config.modulus)) ∧
    legacySteps 2048 (toRanlux (BitVec.ofNat 576 x)) =
      toRanlux (BitVec.ofNat 576 (Config.kA.toNat * x % Config.modulus))

/-- 41_codec.md R206 and R207: `TOLCG` and `TORANLUX` complete in every state with their whole effect, by the integer formulas of R200
and R203. -/
def Obligations.CodecCommandEffects : Prop :=
  (∀ (rd : VReg) (s : State), encode (.tolcg rd) &&& 0xFFFFF8FF#32 = 0x00000008#32 ∧
    exec (.tolcg rd) s = .next { s with vreg := s.vreg.set rd.val (BitVec.ofNat 576 (lcgValue s)) } ∧
    lcgValue s < 2 ^ 576) ∧
  (∀ (ra : VReg) (s : State),
    let p := ranluxForm s.vreg[ra.val].toNat
    encode (.toranlux ra) &&& 0xFFFF8FFF#32 = 0x00000009#32 ∧
    exec (.toranlux ra) s = .next { s with state := p.1, carry := p.2, offset := 0, ready := true })

/-! ### The generator -/

/-- The 48-bit window at bit `o`; at word `k` it may straddle two limbs, as the table inferred in 42_generator.md R230 says
("The pattern of limbs repeats every 4 words"). -/
def Obligations.ExtractStraddlesLimbs : Prop :=
  (∀ (x : Vec576) (o : Nat), (extract x o).toNat = x.toNat / 2 ^ o % 2 ^ 48) ∧
  (∀ (x : Vec576) (j : Nat), j < 3 →
    (extract x (48 * (4 * j))).toNat = (limb x (3 * j)).toNat % 2 ^ 48 ∧
    (extract x (48 * (4 * j + 1))).toNat =
      (limb x (3 * j)).toNat / 2 ^ 48 + (limb x (3 * j + 1)).toNat % 2 ^ 32 * 2 ^ 16 ∧
    (extract x (48 * (4 * j + 2))).toNat =
      (limb x (3 * j + 1)).toNat / 2 ^ 32 + (limb x (3 * j + 2)).toNat % 2 ^ 16 * 2 ^ 32 ∧
    (extract x (48 * (4 * j + 3))).toNat = (limb x (3 * j + 2)).toNat / 2 ^ 16)

/-- `SEED` completes in every state; the generator becomes `ToRANLUX(A^(2^96·s) mod m)`, as 42_generator.md R233 infers from R232
("`STATE` and `CARRY` after `SEED` are `ToRANLUX(A^(2^96·s) mod m)`"), at offset 0, Ready; nothing else changes; so equal `ARG` gives
the same generator and the same words. -/
def Obligations.SeedIsAPowerOfA : Prop :=
  (∀ s : State,
    let p := ranluxForm (Config.kA.toNat ^ (2 ^ 96 * s.arg.toNat))
    exec .seed s = .next { s with state := p.1, carry := p.2, offset := 0, ready := true }) ∧
  (∀ s s' t t' : State, s.arg = s'.arg → exec .seed s = .next t → exec .seed s' = .next t' →
    triple t = triple t' ∧
    ∀ (n : Nat) (u u' : State), repeatNext (n + 1) t = .next u → repeatNext (n + 1) t' = .next u' → u.res = u'.res)

/-- 42_generator.md R236: `ADVANCE` in Ready completes: the generator's residue is multiplied by `A` (R231), the offset is 0, nothing
else changes; in Uninitialized it raises `E_NOTREADY`. -/
def Obligations.AdvanceMultipliesByA : Prop :=
  encode .advance = 0x00000011#32 ∧
  (∀ s : State, s.ready = true →
    let p := ranluxForm (Config.kA.toNat * lcgValue s)
    exec .advance s = .next { s with state := p.1, carry := p.2, offset := 0 }) ∧
  (∀ s : State, s.ready = false → s.err = false →
    exec .advance s = .next { s with err := true, errCode := 3, errInfo := 0x00000011#32 })

/-- 42_generator.md R240: `NEXT` in Ready completes: `RES` is the 48-bit window at `OFFSET`, zero-extended, and `OFFSET` moves by 48;
a used-up block is advanced first, and a word is taken all the same (R241); in Uninitialized it raises `E_NOTREADY`. -/
def Obligations.NextTakesTheWindow : Prop :=
  encode .next = 0x00000012#32 ∧
  (∀ s : State, s.ready = false → s.err = false →
    exec .next s = .next { s with err := true, errCode := 3, errInfo := 0x00000012#32 }) ∧
  ∀ s : State, s.ready = true →
    (s.offset.toNat ≤ 528 →
      exec .next s = .next { s with
        res := BitVec.ofNat 64 (s.state.toNat / 2 ^ s.offset.toNat % 2 ^ 48),
        offset := BitVec.ofNat 10 (s.offset.toNat + 48) }) ∧
    (528 < s.offset.toNat →
      let p := ranluxForm (Config.kA.toNat * lcgValue s)
      exec .next s = .next { s with
        state := p.1, carry := p.2, res := BitVec.ofNat 64 (p.1.toNat % 2 ^ 48), offset := 48 })

/-- 42_generator.md R248: `NEXTDBL` in Ready completes: as `NEXT`, with the binary64 pattern of the word in `RES`; in Uninitialized it
raises `E_NOTREADY`. -/
def Obligations.NextdblTakesTheWindowAsADouble : Prop :=
  encode .nextdbl = 0x00000014#32 ∧
  (∀ s : State, s.ready = false → s.err = false →
    exec .nextdbl s = .next { s with err := true, errCode := 3, errInfo := 0x00000014#32 }) ∧
  ∀ s : State, s.ready = true →
    (s.offset.toNat ≤ 528 →
      exec .nextdbl s = .next { s with
        res := f64Bits (BitVec.ofNat 48 (s.state.toNat / 2 ^ s.offset.toNat)),
        offset := BitVec.ofNat 10 (s.offset.toNat + 48) }) ∧
    (528 < s.offset.toNat →
      let p := ranluxForm (Config.kA.toNat * lcgValue s)
      exec .nextdbl s = .next { s with
        state := p.1, carry := p.2, res := f64Bits (BitVec.ofNat 48 p.1.toNat), offset := 48 })

/-- 42_generator.md R249: `F64Bits(w)` is the exact binary64 pattern of `w / 2^48`: sign 0, biased exponent `e + 975` and fraction
`(w − 2^e)·2^(52−e)` with `e = floor(log2 w)`, a normal number below 1 whose value `(2^52 + fraction)·2^(exponent − 1075)` times `2^48` is `w`. -/
def Obligations.DoubleIsExact : Prop :=
  f64Bits 0 = 0 ∧
  (∀ w : BitVec 48, w ≠ 0 →
    let b := (f64Bits w).toNat
    let exponent := b / 2 ^ 52
    let fraction := b % 2 ^ 52
    (∃ e : Nat, 2 ^ e ≤ w.toNat ∧ w.toNat < 2 ^ (e + 1) ∧ exponent = e + 975 ∧
      fraction = (w.toNat - 2 ^ e) * 2 ^ (52 - e)) ∧
    975 ≤ exponent ∧ exponent ≤ 1022 ∧
    (2 ^ 52 + fraction) * 2 ^ exponent * 2 ^ 48 = w.toNat * 2 ^ 1075) ∧
  f64Bits 1 = 0x3CF0000000000000#64 ∧
  f64Bits (BitVec.ofNat 48 (2 ^ 47)) = 0x3FE0000000000000#64 ∧
  f64Bits (BitVec.ofNat 48 (2 ^ 48 - 1)) = 0x3FEFFFFFFFFFFFE0#64

/-- 42_generator.md R245: `SKIP` in Ready completes: the short path moves `OFFSET` by `48·n`, the long path multiplies the residue by
`A^(k+1)`; nothing else changes; in Uninitialized it raises `E_NOTREADY`. -/
def Obligations.SkipPaths : Prop :=
  encode .skip = 0x00000013#32 ∧
  (∀ s : State, s.ready = false → s.err = false →
    exec .skip s = .next { s with err := true, errCode := 3, errInfo := 0x00000013#32 }) ∧
  ∀ s : State, s.ready = true →
    let n := s.arg.toNat
    let left := (576 - s.offset.toNat) / 48
    let k := (n - left) / 12
    let r := (n - left) % 12
    let p := ranluxForm (Config.kA.toNat ^ (k + 1) * lcgValue s)
    (n < left → exec .skip s = .next { s with offset := BitVec.ofNat 10 (s.offset.toNat + 48 * n) }) ∧
    (left ≤ n → exec .skip s = .next { s with
      state := p.1, carry := p.2, offset := BitVec.ofNat 10 (48 * r) })

/-- The skip law of 42_generator.md R246, with the register comparison the rule infers ("The registers themselves are identical in all cases
except one"): from every Ready state with a legal offset, `SKIP` then `NEXT` gives the same state as
`n + 1` `NEXT`s, so the same `RES` and the same future words; before that last `NEXT` the generator registers agree, except
when `n ≥ left` and `r = 0`: then the `NEXT`s stand at offset 576 of the block before, and one `Advance` leads to the `SKIP`'s state. -/
def Obligations.SkipLaw : Prop :=
  ∀ s : State, s.ready = true → OffsetLegal s →
    let n := s.arg.toNat
    let left := (576 - s.offset.toNat) / 48
    ∃ t u v : State,
      exec .skip s = .next t ∧ exec .next t = .next u ∧
      repeatNext n s = .next v ∧ repeatNext (n + 1) s = .next u ∧
      (¬ (left ≤ n ∧ (n - left) % 12 = 0) → triple v = triple t) ∧
      (left ≤ n ∧ (n - left) % 12 = 0 →
        v.offset = 576 ∧ t.offset = 0 ∧
        (t.state, t.carry) = ranluxForm (Config.kA.toNat * lcgValue v))

/-- The stream of words that 42_generator.md R242 infers: from every Ready state with a legal offset, the `NEXT`s read the rest of the
current block, then the blocks `B_j = ToRANLUX(A^j · L_0 mod m)`; after `SEED` the current block is `B_0`, with `L_0 ≡ A^(2^96·s)`. -/
def Obligations.NextsReadTheStream : Prop :=
  (∀ (s : State) (n : Nat), s.ready = true → OffsetLegal s →
    let left := (576 - s.offset.toNat) / 48
    ∃ u : State, repeatNext (n + 1) s = .next u ∧
      (n < left → u.res.toNat = s.state.toNat / 2 ^ (s.offset.toNat + 48 * n) % 2 ^ 48) ∧
      (left ≤ n →
        let b := (ranluxForm (Config.kA.toNat ^ ((n - left) / 12 + 1) * lcgValue s)).1
        u.res.toNat = b.toNat / 2 ^ (48 * ((n - left) % 12)) % 2 ^ 48)) ∧
  (∀ (s : State) (n : Nat), ∃ t u : State, exec .seed s = .next t ∧ repeatNext (n + 1) t = .next u ∧
    t.offset = 0 ∧
    lcgValue t % Config.modulus = Config.kA.toNat ^ (2 ^ 96 * s.arg.toNat) % Config.modulus ∧
    let b := (ranluxForm (Config.kA.toNat ^ (n / 12 + 2 ^ 96 * s.arg.toNat))).1
    u.res.toNat = b.toNat / 2 ^ (48 * (n % 12)) % 2 ^ 48)

/-- 60_exceptions.md R305: in Uninitialized the four generator commands raise `E_NOTREADY` with their command word and change
nothing else, nothing at all while an error is recorded; every other command runs in either state without an error. (The command
word of a command is its encoding, log entry 12.) -/
def Obligations.ReadyCheck : Prop :=
  (∀ (i : Instr) (s : State), i ∈ [.advance, .next, .skip, .nextdbl] → s.ready = false →
    exec i s = .next (if s.err then s else { s with err := true, errCode := 3, errInfo := encode i })) ∧
  (∀ (i : Instr) (s : State), i ∉ [.advance, .next, .skip, .nextdbl] →
    ∃ t : State, exec i s = .next t ∧ t.err = s.err ∧ t.errCode = s.errCode ∧ t.errInfo = s.errInfo)

/-- `RESTORE` completes in every state and sets Ready, nothing else (42_generator.md R250). -/
def Obligations.RestoreSetsReady : Prop :=
  ∀ s : State, encode .restore = 0x00000015#32 ∧ exec .restore s = .next { s with ready := true }

/-- The generator's behaviour depends only on the persisted triple: two Ready states that agree on it give the same word and
the same new triple under every generator command (42_generator.md R250, 10_state.md R46). -/
def Obligations.GeneratorDependsOnTheTripleOnly : Prop :=
  ∀ s s' t t' : State, s.ready = true → s'.ready = true → triple s = triple s' →
    (exec .next s = .next t → exec .next s' = .next t' → t.res = t'.res ∧ triple t = triple t') ∧
    (exec .nextdbl s = .next t → exec .nextdbl s' = .next t' → t.res = t'.res ∧ triple t = triple t') ∧
    (exec .advance s = .next t → exec .advance s' = .next t' → triple t = triple t') ∧
    (s.arg = s'.arg → exec .skip s = .next t → exec .skip s' = .next t' → triple t = triple t')

/-- The all-zero state, as 70_reset_and_hazards.md R364 infers it ("`STATE = 0` with `CARRY = 0` is a fixed point"): a fixed point that
`NEXT` reads as 0 and `SKIP` keeps; `RESTORE` after reset, `TORANLUX` of 0 or `m`, and one `ADVANCE` from all ones with carry 1 reach
it; `SEED` never does. -/
def Obligations.AllZeroStateIsAFixedPoint : Prop :=
  (∀ s : State, s.ready = true → s.state = 0 → s.carry = 0 →
    exec .advance s = .next { s with offset := 0 } ∧
    (∃ t, exec .next s = .next t ∧ t.res = 0 ∧ t.state = 0 ∧ t.carry = 0) ∧
    (∃ t, exec .skip s = .next t ∧ t.state = 0 ∧ t.carry = 0)) ∧
  exec .restore State.reset = .next { State.reset with ready := true } ∧
  (∀ (ra : VReg) (s : State), s.vreg[ra.val] = 0 ∨ s.vreg[ra.val].toNat = Config.modulus →
    exec (.toranlux ra) s = .next { s with state := 0, carry := 0, offset := 0, ready := true }) ∧
  (∀ s : State, s.ready = true → s.state = BitVec.allOnes 576 → s.carry = 1 →
    exec .advance s = .next { s with state := 0, carry := 0, offset := 0 }) ∧
  Nat.gcd Config.kA.toNat Config.modulus = 1 ∧
  (∀ s t : State, exec .seed s = .next t → ¬ (t.state = 0 ∧ t.carry = 0))

/-- `SEED` with `ARG = 0` gives the buffer 1 without carry, whose words are 1 and eleven 0s, as 70_reset_and_hazards.md R365 infers
("Its first block is the words 1, 0, 0"). -/
def Obligations.SeedZeroIsWeak : Prop :=
  ∀ s : State, s.arg = 0 →
    exec .seed s = .next { s with state := 1, carry := 0, offset := 0, ready := true } ∧
    ∀ k < 12, extract (1 : Vec576) (48 * k) = if k = 0 then 1 else 0

/-- The seeded reference of the spec: `A` is `a^2048 mod m` below `m` with the stated limbs, and seed 314159265 gives the words
39378223178113 and 160644077475575 (10_state.md R40). -/
def Obligations.SeededReferenceWords : Prop :=
  Config.kA.toNat = legacyMultiplier ^ 2048 % Config.modulus ∧
  (List.range 9).map (limb Config.kA) =
    [0xed7faa90747aaad9#64, 0x4cec2c78af55c101#64, 0xe64dcb31c48228ec#64, 0x6d8a15a13bee7cb0#64,
      0x20b2ca60cb78c509#64, 0x256c3d3c662ea36c#64, 0xff74e54107684ed2#64, 0x492edfcc0cc8e753#64,
      0xb48c187cf5b22097#64] ∧
  ∃ s0 s1 s2 : State, exec .seed { State.reset with arg := 314159265 } = .next s0 ∧
    exec .next s0 = .next s1 ∧ exec .next s1 = .next s2 ∧
    s1.res = 39378223178113 ∧ s2.res = 160644077475575

/-! ### The register window -/

/-- 20_memory.md R78: the value a legal read of each register returns, from any state, without a side effect; 0 with an error
elsewhere. The returned value stands in the model's own field `response` (log entry 2). -/
def Obligations.ReadValues : Prop :=
  (∀ (s : State) (rest : List BusEvent),
    let read (r : WinReg) (v : Limb) : Prop :=
      step (s.setPending (.read (BitVec.ofNat 11 r.windowOffset) 8 :: rest)) =
        .next { s with pending := rest, response := some v }
    read .id 0x00000007524C582B#64 ∧ read .cfg 0x000008090C024030#64 ∧ read .ctrl 0 ∧ read .cmd 0 ∧
    read .status (BitVec.ofNat 64 (s.ready.toNat + s.err.toNat * 2 + s.errCode.toNat * 2 ^ 8 +
      s.errInfo.toNat * 2 ^ 16)) ∧
    read .arg s.arg ∧ read .res s.res ∧
    read .offset (BitVec.ofNat 64 s.offset.toNat) ∧ read .carry (BitVec.ofNat 64 s.carry.toNat) ∧
    (∀ i : Fin 9, read (.state i) (BitVec.ofNat 64 (s.state.toNat / 2 ^ (64 * i.val))) ∧
      read (.a i) (BitVec.ofNat 64 (Config.kA.toNat / 2 ^ (64 * i.val)))) ∧
    (∀ i : Fin 18, read (.prod i) (BitVec.ofNat 64 (s.prod.toNat / 2 ^ (64 * i.val)))) ∧
    (∀ (r : VReg) (i : Fin 9),
      read (.v r i) (BitVec.ofNat 64 (s.vreg[r.val].toNat / 2 ^ (64 * i.val))))) ∧
  (∀ (s : State) (rest : List BusEvent) (off : WinOff) (n : Nat), n ≠ 8 ∨ off.toNat % 8 ≠ 0 →
    step (s.setPending (.read off n :: rest)) = .next
      (if s.err then { s with pending := rest, response := some 0 }
       else { s with pending := rest, response := some 0, err := true, errCode := 5,
                     errInfo := BitVec.ofNat 32 off.toNat })) ∧
  (∀ (s : State) (rest : List BusEvent) (off : WinOff), off.toNat % 8 = 0 →
    (∀ r : WinReg, r.windowOffset ≠ off.toNat) →
    step (s.setPending (.read off 8 :: rest)) = .next
      (if s.err then { s with pending := rest, response := some 0 }
       else { s with pending := rest, response := some 0, err := true, errCode := 4,
                     errInfo := BitVec.ofNat 32 off.toNat }))

/-- As 20_memory.md R79 infers ("A read never changes block state"), a read changes at most the error record, and two reads of a register in a row return the same value. -/
def Obligations.ReadsChangeNothing : Prop :=
  (∀ (s t : State) (rest : List BusEvent) (off : WinOff) (n : Nat),
    step (s.setPending (.read off n :: rest)) = .next t →
    SameBlock s { t with err := s.err, errCode := s.errCode, errInfo := s.errInfo } ∧
    (n = 8 → (∃ r : WinReg, r.windowOffset = off.toNat) → SameBlock s t)) ∧
  (∀ (s t u : State) (rest : List BusEvent) (r : WinReg),
    step (s.setPending (rd r :: rd r :: rest)) = .next t → step t = .next u → t.response = u.response)

/-- 20_memory.md R80: a write to a read-only register raises `E_ROWRITE` with its offset and does nothing else. -/
def Obligations.ReadOnlyWritesRaise : Prop :=
  ∀ (s : State) (rest : List BusEvent) (r : WinReg) (v : Limb),
    (r = .id ∨ r = .cfg ∨ r = .status ∨ r = .res ∨ ∃ i, r = .a i) →
    step (s.setPending (.write (BitVec.ofNat 11 r.windowOffset) 8 v :: rest)) = .next
      (if s.err then { s with pending := rest, response := none }
       else { s with pending := rest, response := none, err := true, errCode := 6,
                     errInfo := BitVec.ofNat 32 r.windowOffset })

/-- 20_memory.md R81: a write to `ARG` or to a limb of `STATE`, `PROD` or `V[r]` stores all 64 bits, by the rule's formula, whatever
`ERR` and `READY` are, and changes nothing else. -/
def Obligations.LimbWritesStore : Prop :=
  ∀ (s : State) (rest : List BusEvent) (v : Limb),
    let after (r : WinReg) := step (s.setPending (.write (BitVec.ofNat 11 r.windowOffset) 8 v :: rest))
    let t : State := { s with pending := rest, response := none }
    let stored (x i : Nat) : Nat := x - 2 ^ (64 * i) * (x / 2 ^ (64 * i) % 2 ^ 64) + 2 ^ (64 * i) * v.toNat
    after .arg = .next { t with arg := v } ∧
    (∀ i : Fin 9, ∃ x : Vec576, x.toNat = stored s.state.toNat i.val ∧
      after (.state i) = .next { t with state := x }) ∧
    (∀ i : Fin 18, ∃ x : Vec1152, x.toNat = stored s.prod.toNat i.val ∧
      after (.prod i) = .next { t with prod := x }) ∧
    (∀ (r : VReg) (i : Fin 9), ∃ x : Vec576, x.toNat = stored s.vreg[r.val].toNat i.val ∧
      after (.v r i) = .next { t with vreg := s.vreg.set r.val x })

/-- A data register reads back what was written to it, every other register of the window reads as before, and so does every
byte of the window outside the 8 bytes written (20_memory.md R77, R81, R83). -/
def Obligations.WindowReadAfterWrite : Prop :=
  ∀ (s t : State) (rest : List BusEvent) (r : WinReg) (v : Limb),
    (r.access = .readWrite ∨ (r = .offset ∧ v.toNat % 48 = 0 ∧ v.toNat ≤ 576) ∨ (r = .carry ∧ v.toNat ≤ 1)) →
    step (s.setPending (wr r v :: rest)) = .next t →
    regValue t r = v ∧
    (∀ r' : WinReg, r' ≠ r → regValue t r' = regValue s r') ∧
    (∀ a : WinOff, a.toNat < r.windowOffset ∨ r.windowOffset + 8 ≤ a.toNat → windowByte t a = windowByte s a)

/-- 20_memory.md R82: a `CTRL` write is a soft reset if bit 0 is 1, else an error clear if bit 1 is 1, else nothing; any of bits
63:2 raises `E_VALUE` and does nothing. It acts whatever `ERR` is. The error clear is the whole of 60_exceptions.md R310. -/
def Obligations.CtrlWrites : Prop :=
  ∀ (s : State) (rest : List BusEvent) (v : Limb),
    let after := step (s.setPending (.write 0x010#11 8 v :: rest))
    let t : State := { s with pending := rest, response := none }
    (4 ≤ v.toNat → after = .next
      (if s.err then t else { t with err := true, errCode := 7, errInfo := 0x010 })) ∧
    (v = 1 ∨ v = 3 → after = .next { State.reset with pending := rest, response := none }) ∧
    (v = 2 → after = .next { t with err := false, errCode := 0, errInfo := 0 }) ∧
    (v = 0 → after = .next t)

/-- 20_memory.md R83: `OFFSET` takes the multiples of 48 up to 576 and `CARRY` takes 0 and 1; any other value raises `E_VALUE` with
the offset of the register and changes nothing. -/
def Obligations.CheckedWrites : Prop :=
  ∀ (s : State) (rest : List BusEvent) (v : Limb),
    let t : State := { s with pending := rest, response := none }
    step (s.setPending (.write 0x038#11 8 v :: rest)) = .next
      (if v.toNat % 48 = 0 ∧ v.toNat ≤ 576 then { t with offset := BitVec.ofNat 10 v.toNat }
       else if s.err then t else { t with err := true, errCode := 7, errInfo := 0x038 }) ∧
    step (s.setPending (.write 0x040#11 8 v :: rest)) = .next
      (if v.toNat = 0 ∨ v.toNat = 1 then { t with carry := BitVec.ofNat 1 v.toNat }
       else if s.err then t else { t with err := true, errCode := 7, errInfo := 0x040 })

/-- 20_memory.md R75 and R76: an access of another width or alignment raises `E_ACCESS`, an aligned 8-byte access to an unmapped
offset raises `E_ADDR`, each with the offset; a write then has no effect and a read returns 0. -/
def Obligations.IllegalAccessesRaise : Prop :=
  ∀ (s : State) (rest : List BusEvent) (off : WinOff) (n : Nat) (v : Limb),
    let raised (code : BitVec 8) (resp : Option Limb) : State :=
      if s.err then { s with pending := rest, response := resp }
      else { s with pending := rest, response := resp, err := true, errCode := code,
                    errInfo := BitVec.ofNat 32 off.toNat }
    (n ≠ 8 ∨ off.toNat % 8 ≠ 0 →
      step (s.setPending (.write off n v :: rest)) = .next (raised 5 none) ∧
      step (s.setPending (.read off n :: rest)) = .next (raised 5 (some 0))) ∧
    (n = 8 → off.toNat % 8 = 0 → (∀ r : WinReg, r.windowOffset ≠ off.toNat) →
      step (s.setPending (.write off n v :: rest)) = .next (raised 4 none) ∧
      step (s.setPending (.read off n :: rest)) = .next (raised 4 (some 0)))

/-- Bytes and limbs are little-endian: the bytes of `STATE`, `PROD` and each `V[r]` from its base offset on are the little-endian
bytes of its integer value, as 20_memory.md R77 infers from R73 ("the 72-byte image of a `Vec576`"). -/
def Obligations.WindowIsLittleEndian : Prop :=
  ∀ s : State,
    bytesValue s 0x080 72 = s.state.toNat ∧
    bytesValue s 0x100 72 = Config.kA.toNat ∧
    bytesValue s 0x200 144 = s.prod.toNat ∧
    ∀ r : VReg, bytesValue s (0x400 + 0x80 * r.val) 72 = s.vreg[r.val].toNat

/-- The nine writes of `LDV` load a whole vector register, from any state, error or not (30_encoding.md R123, 20_memory.md R81). -/
def Obligations.LdvLoadsTheWholeRegister : Prop :=
  ∀ (s : State) (rest : List BusEvent) (r : VReg) (x : Vec576),
    Host.Core.run Sys2Proof.core 9 (s.setPending ((Pseudo.ldv r x).expand ++ rest)) =
      .next { s with vreg := s.vreg.set r.val x, pending := rest, response := none }

/-- The twelve transactions of `LOAD` restore a saved triple and make the generator Ready (30_encoding.md R123, 10_state.md R46). -/
def Obligations.LoadRestoresTheTriple : Prop :=
  ∀ (s : State) (rest : List BusEvent) (x : Vec576) (c : BitVec 1) (o : BitVec 10), s.err = false →
    o.toNat % 48 = 0 → o.toNat ≤ 576 →
    Host.Core.run Sys2Proof.core 12
      (s.setPending ((Pseudo.load x (c.setWidth 64) (o.setWidth 64)).expand ++ rest)) =
      .next { s with state := x, carry := c, offset := o, ready := true, pending := rest, response := none }

/-! ### The error record and reset -/

/-- 60_exceptions.md R302: an error is recorded when none is, with its code and its information mod `2^32`; while one is recorded, no
event changes the record but a reset or an error clear. -/
def Obligations.FirstErrorWins : Prop :=
  (∀ (c : ErrorCode) (info : Nat) (s : State), s.err = false →
    raiseError c info s = { s with err := true, errCode := c.code, errInfo := BitVec.ofNat 32 (info % 2 ^ 32) }) ∧
  (∀ (c : ErrorCode) (info : Nat) (s : State), s.err = true → raiseError c info s = s) ∧
  (∀ (s t : State) (e : BusEvent) (rest : List BusEvent), s.err = true → ¬ isReset e → e ≠ wr .ctrl 2 →
    step (s.setPending (e :: rest)) = .next t →
    t.err = true ∧ t.errCode = s.errCode ∧ t.errInfo = s.errInfo)

/-- A transaction that raises an error leaves every register but the error record as it was, and a read then returns 0
(60_exceptions.md R302, R307). -/
def Obligations.ErrorsArePrecise : Prop :=
  ∀ (s t : State) (e : BusEvent) (rest : List BusEvent), s.err = false →
    step (s.setPending (e :: rest)) = .next t → t.err = true →
    SameBlock s { t with err := s.err, errCode := s.errCode, errInfo := s.errInfo } ∧
    ((∃ off n, e = .read off n) → t.response = some 0)

/-- After a reset of either kind every piece of state has its reset value, the constants keep theirs, and `CTRL` and `CMD` read 0
(10_state.md section 8, 70_reset_and_hazards.md section 1); `STATUS` reads 0, as the spec infers ("`STATUS` therefore reads 0 after reset").
That a reset during a held `CMD` write and a power cycle (60_exceptions.md section 5) are one event each is log entry 18. -/
def Obligations.ResetValues : Prop :=
  ∀ (s : State) (e : BusEvent) (rest : List BusEvent), isReset e →
    ∃ t : State, step (s.setPending (e :: rest)) = .next t ∧
      (∀ r : VReg, t.vreg[r.val] = 0) ∧ t.prod = 0 ∧ t.arg = 0 ∧ t.res = 0 ∧ t.state = 0 ∧ t.carry = 0 ∧
      t.offset = 0 ∧ t.ready = false ∧ t.err = false ∧ t.errCode = 0 ∧ t.errInfo = 0 ∧
      regValue t .id = 0x00000007524C582B#64 ∧ regValue t .cfg = 0x000008090C024030#64 ∧
      (∀ i : Fin 9, regValue t (.a i) = limb Config.kA i.val) ∧
      regValue t .ctrl = 0 ∧ regValue t .cmd = 0 ∧ regValue t .status = 0

/-- `READY` changes only as the generator's state machine says: only a reset clears it, and only `SEED`, `TORANLUX` and `RESTORE`,
issued without a recorded error, set it (10_state.md R44). -/
def Obligations.ReadyStateMachine : Prop :=
  ∀ (s t : State) (e : BusEvent) (rest : List BusEvent),
    step (s.setPending (e :: rest)) = .next t →
    (s.ready = true → t.ready = false → isReset e) ∧
    (s.ready = false → t.ready = true → s.err = false ∧ ∃ i : Instr,
      e = cmd i ∧ i.opcode ∈ [.seed, .toranlux, .restore])

/-- `ARG` changes only by a host write to it or a reset; no command writes it (10_state.md R36, 70_reset_and_hazards.md R361). -/
def Obligations.ArgChangesOnlyByTheHost : Prop :=
  ∀ (s t : State) (e : BusEvent) (rest : List BusEvent),
    step (s.setPending (e :: rest)) = .next t → t.arg ≠ s.arg →
    isReset e ∨ e = wr .arg t.arg

/-! ### Invariants -/

/-- Every step keeps the block's invariant, from every state that has it, whatever the event: the offset stays a multiple of 48 up
to 576, and the error record stays well formed (10_state.md R45, 60_exceptions.md R301, R303). -/
def Obligations.StepKeepsInvariant : Prop :=
  ∀ s t : State, Inv s → step s = .next t → Inv t

/-- The reset state has the block's invariant (10_state.md R45, R50). -/
def Obligations.ResetHasInvariant : Prop := Inv State.reset

/-! ### The platform -/

/-- An access at an address outside an instance's window changes no register of that instance, and one inside is its window offset
(20_memory.md R71, 60_exceptions.md R342). -/
def Obligations.AccessOutsideTheWindowChangesNothing : Prop :=
  (∀ (q : BusRequest) (b : PlacedBlock) (addr : Nat), (∃ n, q = .read addr n) ∨ (∃ n v, q = .write addr n v) →
    ¬ (b.base ≤ addr ∧ addr < b.base + 0x800) → b.state.pending = [] →
    ∃ t : State, Platform.stepAll (Platform.request q [b]) = [⟨b.base, t⟩] ∧ SameBlock b.state t) ∧
  (∀ base off : Nat, off < 0x800 → route base (base + off) = some (BitVec.ofNat 11 off)) ∧
  (∀ (q : BusRequest) (p p' : Platform),
    Platform.stepAll (Platform.request q (p ++ p')) =
      Platform.stepAll (Platform.request q p) ++ Platform.stepAll (Platform.request q p'))
end

