-- ==== Sys2Proof/Laws/State.lean ====
section
/-! SUPPORT. One lemma per field per update of `State`, true by `rfl`, so that no later proof unfolds an update. -/

namespace Sys2Proof.Machine

variable (s : State)

/-! ### `State.setProd` -/

@[simp] theorem State.setProd_vreg (x : Vec1152) : (s.setProd x).vreg = s.vreg := rfl
@[simp] theorem State.setProd_prod (x : Vec1152) : (s.setProd x).prod = x := rfl
@[simp] theorem State.setProd_arg (x : Vec1152) : (s.setProd x).arg = s.arg := rfl
@[simp] theorem State.setProd_res (x : Vec1152) : (s.setProd x).res = s.res := rfl
@[simp] theorem State.setProd_state (x : Vec1152) : (s.setProd x).state = s.state := rfl
@[simp] theorem State.setProd_carry (x : Vec1152) : (s.setProd x).carry = s.carry := rfl
@[simp] theorem State.setProd_offset (x : Vec1152) : (s.setProd x).offset = s.offset := rfl
@[simp] theorem State.setProd_ready (x : Vec1152) : (s.setProd x).ready = s.ready := rfl
@[simp] theorem State.setProd_err (x : Vec1152) : (s.setProd x).err = s.err := rfl
@[simp] theorem State.setProd_errCode (x : Vec1152) : (s.setProd x).errCode = s.errCode := rfl
@[simp] theorem State.setProd_errInfo (x : Vec1152) : (s.setProd x).errInfo = s.errInfo := rfl
@[simp] theorem State.setProd_pending (x : Vec1152) : (s.setProd x).pending = s.pending := rfl
@[simp] theorem State.setProd_response (x : Vec1152) : (s.setProd x).response = s.response := rfl

/-! ### `State.setArg` -/

@[simp] theorem State.setArg_vreg (x : Limb) : (s.setArg x).vreg = s.vreg := rfl
@[simp] theorem State.setArg_prod (x : Limb) : (s.setArg x).prod = s.prod := rfl
@[simp] theorem State.setArg_arg (x : Limb) : (s.setArg x).arg = x := rfl
@[simp] theorem State.setArg_res (x : Limb) : (s.setArg x).res = s.res := rfl
@[simp] theorem State.setArg_state (x : Limb) : (s.setArg x).state = s.state := rfl
@[simp] theorem State.setArg_carry (x : Limb) : (s.setArg x).carry = s.carry := rfl
@[simp] theorem State.setArg_offset (x : Limb) : (s.setArg x).offset = s.offset := rfl
@[simp] theorem State.setArg_ready (x : Limb) : (s.setArg x).ready = s.ready := rfl
@[simp] theorem State.setArg_err (x : Limb) : (s.setArg x).err = s.err := rfl
@[simp] theorem State.setArg_errCode (x : Limb) : (s.setArg x).errCode = s.errCode := rfl
@[simp] theorem State.setArg_errInfo (x : Limb) : (s.setArg x).errInfo = s.errInfo := rfl
@[simp] theorem State.setArg_pending (x : Limb) : (s.setArg x).pending = s.pending := rfl
@[simp] theorem State.setArg_response (x : Limb) : (s.setArg x).response = s.response := rfl

/-! ### `State.setRes` -/

@[simp] theorem State.setRes_vreg (x : Limb) : (s.setRes x).vreg = s.vreg := rfl
@[simp] theorem State.setRes_prod (x : Limb) : (s.setRes x).prod = s.prod := rfl
@[simp] theorem State.setRes_arg (x : Limb) : (s.setRes x).arg = s.arg := rfl
@[simp] theorem State.setRes_res (x : Limb) : (s.setRes x).res = x := rfl
@[simp] theorem State.setRes_state (x : Limb) : (s.setRes x).state = s.state := rfl
@[simp] theorem State.setRes_carry (x : Limb) : (s.setRes x).carry = s.carry := rfl
@[simp] theorem State.setRes_offset (x : Limb) : (s.setRes x).offset = s.offset := rfl
@[simp] theorem State.setRes_ready (x : Limb) : (s.setRes x).ready = s.ready := rfl
@[simp] theorem State.setRes_err (x : Limb) : (s.setRes x).err = s.err := rfl
@[simp] theorem State.setRes_errCode (x : Limb) : (s.setRes x).errCode = s.errCode := rfl
@[simp] theorem State.setRes_errInfo (x : Limb) : (s.setRes x).errInfo = s.errInfo := rfl
@[simp] theorem State.setRes_pending (x : Limb) : (s.setRes x).pending = s.pending := rfl
@[simp] theorem State.setRes_response (x : Limb) : (s.setRes x).response = s.response := rfl

/-! ### `State.setState` -/

@[simp] theorem State.setState_vreg (x : Vec576) : (s.setState x).vreg = s.vreg := rfl
@[simp] theorem State.setState_prod (x : Vec576) : (s.setState x).prod = s.prod := rfl
@[simp] theorem State.setState_arg (x : Vec576) : (s.setState x).arg = s.arg := rfl
@[simp] theorem State.setState_res (x : Vec576) : (s.setState x).res = s.res := rfl
@[simp] theorem State.setState_state (x : Vec576) : (s.setState x).state = x := rfl
@[simp] theorem State.setState_carry (x : Vec576) : (s.setState x).carry = s.carry := rfl
@[simp] theorem State.setState_offset (x : Vec576) : (s.setState x).offset = s.offset := rfl
@[simp] theorem State.setState_ready (x : Vec576) : (s.setState x).ready = s.ready := rfl
@[simp] theorem State.setState_err (x : Vec576) : (s.setState x).err = s.err := rfl
@[simp] theorem State.setState_errCode (x : Vec576) : (s.setState x).errCode = s.errCode := rfl
@[simp] theorem State.setState_errInfo (x : Vec576) : (s.setState x).errInfo = s.errInfo := rfl
@[simp] theorem State.setState_pending (x : Vec576) : (s.setState x).pending = s.pending := rfl
@[simp] theorem State.setState_response (x : Vec576) : (s.setState x).response = s.response := rfl

/-! ### `State.setCarry` -/

@[simp] theorem State.setCarry_vreg (c : BitVec 1) : (s.setCarry c).vreg = s.vreg := rfl
@[simp] theorem State.setCarry_prod (c : BitVec 1) : (s.setCarry c).prod = s.prod := rfl
@[simp] theorem State.setCarry_arg (c : BitVec 1) : (s.setCarry c).arg = s.arg := rfl
@[simp] theorem State.setCarry_res (c : BitVec 1) : (s.setCarry c).res = s.res := rfl
@[simp] theorem State.setCarry_state (c : BitVec 1) : (s.setCarry c).state = s.state := rfl
@[simp] theorem State.setCarry_carry (c : BitVec 1) : (s.setCarry c).carry = c := rfl
@[simp] theorem State.setCarry_offset (c : BitVec 1) : (s.setCarry c).offset = s.offset := rfl
@[simp] theorem State.setCarry_ready (c : BitVec 1) : (s.setCarry c).ready = s.ready := rfl
@[simp] theorem State.setCarry_err (c : BitVec 1) : (s.setCarry c).err = s.err := rfl
@[simp] theorem State.setCarry_errCode (c : BitVec 1) : (s.setCarry c).errCode = s.errCode := rfl
@[simp] theorem State.setCarry_errInfo (c : BitVec 1) : (s.setCarry c).errInfo = s.errInfo := rfl
@[simp] theorem State.setCarry_pending (c : BitVec 1) : (s.setCarry c).pending = s.pending := rfl
@[simp] theorem State.setCarry_response (c : BitVec 1) : (s.setCarry c).response = s.response := rfl

/-! ### `State.setOffset` -/

@[simp] theorem State.setOffset_vreg (o : BitVec 10) : (s.setOffset o).vreg = s.vreg := rfl
@[simp] theorem State.setOffset_prod (o : BitVec 10) : (s.setOffset o).prod = s.prod := rfl
@[simp] theorem State.setOffset_arg (o : BitVec 10) : (s.setOffset o).arg = s.arg := rfl
@[simp] theorem State.setOffset_res (o : BitVec 10) : (s.setOffset o).res = s.res := rfl
@[simp] theorem State.setOffset_state (o : BitVec 10) : (s.setOffset o).state = s.state := rfl
@[simp] theorem State.setOffset_carry (o : BitVec 10) : (s.setOffset o).carry = s.carry := rfl
@[simp] theorem State.setOffset_offset (o : BitVec 10) : (s.setOffset o).offset = o := rfl
@[simp] theorem State.setOffset_ready (o : BitVec 10) : (s.setOffset o).ready = s.ready := rfl
@[simp] theorem State.setOffset_err (o : BitVec 10) : (s.setOffset o).err = s.err := rfl
@[simp] theorem State.setOffset_errCode (o : BitVec 10) : (s.setOffset o).errCode = s.errCode := rfl
@[simp] theorem State.setOffset_errInfo (o : BitVec 10) : (s.setOffset o).errInfo = s.errInfo := rfl
@[simp] theorem State.setOffset_pending (o : BitVec 10) : (s.setOffset o).pending = s.pending := rfl
@[simp] theorem State.setOffset_response (o : BitVec 10) : (s.setOffset o).response = s.response := rfl

/-! ### `State.setReady` -/

@[simp] theorem State.setReady_vreg (b : Bool) : (s.setReady b).vreg = s.vreg := rfl
@[simp] theorem State.setReady_prod (b : Bool) : (s.setReady b).prod = s.prod := rfl
@[simp] theorem State.setReady_arg (b : Bool) : (s.setReady b).arg = s.arg := rfl
@[simp] theorem State.setReady_res (b : Bool) : (s.setReady b).res = s.res := rfl
@[simp] theorem State.setReady_state (b : Bool) : (s.setReady b).state = s.state := rfl
@[simp] theorem State.setReady_carry (b : Bool) : (s.setReady b).carry = s.carry := rfl
@[simp] theorem State.setReady_offset (b : Bool) : (s.setReady b).offset = s.offset := rfl
@[simp] theorem State.setReady_ready (b : Bool) : (s.setReady b).ready = b := rfl
@[simp] theorem State.setReady_err (b : Bool) : (s.setReady b).err = s.err := rfl
@[simp] theorem State.setReady_errCode (b : Bool) : (s.setReady b).errCode = s.errCode := rfl
@[simp] theorem State.setReady_errInfo (b : Bool) : (s.setReady b).errInfo = s.errInfo := rfl
@[simp] theorem State.setReady_pending (b : Bool) : (s.setReady b).pending = s.pending := rfl
@[simp] theorem State.setReady_response (b : Bool) : (s.setReady b).response = s.response := rfl

/-! ### `State.setError` -/

@[simp] theorem State.setError_vreg (e : Bool) (c : BitVec 8) (info : BitVec 32) : (s.setError e c info).vreg = s.vreg := rfl
@[simp] theorem State.setError_prod (e : Bool) (c : BitVec 8) (info : BitVec 32) : (s.setError e c info).prod = s.prod := rfl
@[simp] theorem State.setError_arg (e : Bool) (c : BitVec 8) (info : BitVec 32) : (s.setError e c info).arg = s.arg := rfl
@[simp] theorem State.setError_res (e : Bool) (c : BitVec 8) (info : BitVec 32) : (s.setError e c info).res = s.res := rfl
@[simp] theorem State.setError_state (e : Bool) (c : BitVec 8) (info : BitVec 32) : (s.setError e c info).state = s.state := rfl
@[simp] theorem State.setError_carry (e : Bool) (c : BitVec 8) (info : BitVec 32) : (s.setError e c info).carry = s.carry := rfl
@[simp] theorem State.setError_offset (e : Bool) (c : BitVec 8) (info : BitVec 32) : (s.setError e c info).offset = s.offset := rfl
@[simp] theorem State.setError_ready (e : Bool) (c : BitVec 8) (info : BitVec 32) : (s.setError e c info).ready = s.ready := rfl
@[simp] theorem State.setError_err (e : Bool) (c : BitVec 8) (info : BitVec 32) : (s.setError e c info).err = e := rfl
@[simp] theorem State.setError_errCode (e : Bool) (c : BitVec 8) (info : BitVec 32) : (s.setError e c info).errCode = c := rfl
@[simp] theorem State.setError_errInfo (e : Bool) (c : BitVec 8) (info : BitVec 32) : (s.setError e c info).errInfo = info := rfl
@[simp] theorem State.setError_pending (e : Bool) (c : BitVec 8) (info : BitVec 32) : (s.setError e c info).pending = s.pending := rfl
@[simp] theorem State.setError_response (e : Bool) (c : BitVec 8) (info : BitVec 32) : (s.setError e c info).response = s.response := rfl

/-! ### `State.loadGenerator` -/

@[simp] theorem State.loadGenerator_vreg (p : Vec576 × BitVec 1) (o : BitVec 10) : (s.loadGenerator p o).vreg = s.vreg := rfl
@[simp] theorem State.loadGenerator_prod (p : Vec576 × BitVec 1) (o : BitVec 10) : (s.loadGenerator p o).prod = s.prod := rfl
@[simp] theorem State.loadGenerator_arg (p : Vec576 × BitVec 1) (o : BitVec 10) : (s.loadGenerator p o).arg = s.arg := rfl
@[simp] theorem State.loadGenerator_res (p : Vec576 × BitVec 1) (o : BitVec 10) : (s.loadGenerator p o).res = s.res := rfl
@[simp] theorem State.loadGenerator_state (p : Vec576 × BitVec 1) (o : BitVec 10) : (s.loadGenerator p o).state = p.1 := rfl
@[simp] theorem State.loadGenerator_carry (p : Vec576 × BitVec 1) (o : BitVec 10) : (s.loadGenerator p o).carry = p.2 := rfl
@[simp] theorem State.loadGenerator_offset (p : Vec576 × BitVec 1) (o : BitVec 10) : (s.loadGenerator p o).offset = o := rfl
@[simp] theorem State.loadGenerator_ready (p : Vec576 × BitVec 1) (o : BitVec 10) : (s.loadGenerator p o).ready = s.ready := rfl
@[simp] theorem State.loadGenerator_err (p : Vec576 × BitVec 1) (o : BitVec 10) : (s.loadGenerator p o).err = s.err := rfl
@[simp] theorem State.loadGenerator_errCode (p : Vec576 × BitVec 1) (o : BitVec 10) : (s.loadGenerator p o).errCode = s.errCode := rfl
@[simp] theorem State.loadGenerator_errInfo (p : Vec576 × BitVec 1) (o : BitVec 10) : (s.loadGenerator p o).errInfo = s.errInfo := rfl
@[simp] theorem State.loadGenerator_pending (p : Vec576 × BitVec 1) (o : BitVec 10) : (s.loadGenerator p o).pending = s.pending := rfl
@[simp] theorem State.loadGenerator_response (p : Vec576 × BitVec 1) (o : BitVec 10) : (s.loadGenerator p o).response = s.response := rfl

/-! ### `State.setPending` -/

@[simp] theorem State.setPending_vreg (es : List BusEvent) : (s.setPending es).vreg = s.vreg := rfl
@[simp] theorem State.setPending_prod (es : List BusEvent) : (s.setPending es).prod = s.prod := rfl
@[simp] theorem State.setPending_arg (es : List BusEvent) : (s.setPending es).arg = s.arg := rfl
@[simp] theorem State.setPending_res (es : List BusEvent) : (s.setPending es).res = s.res := rfl
@[simp] theorem State.setPending_state (es : List BusEvent) : (s.setPending es).state = s.state := rfl
@[simp] theorem State.setPending_carry (es : List BusEvent) : (s.setPending es).carry = s.carry := rfl
@[simp] theorem State.setPending_offset (es : List BusEvent) : (s.setPending es).offset = s.offset := rfl
@[simp] theorem State.setPending_ready (es : List BusEvent) : (s.setPending es).ready = s.ready := rfl
@[simp] theorem State.setPending_err (es : List BusEvent) : (s.setPending es).err = s.err := rfl
@[simp] theorem State.setPending_errCode (es : List BusEvent) : (s.setPending es).errCode = s.errCode := rfl
@[simp] theorem State.setPending_errInfo (es : List BusEvent) : (s.setPending es).errInfo = s.errInfo := rfl
@[simp] theorem State.setPending_pending (es : List BusEvent) : (s.setPending es).pending = es := rfl
@[simp] theorem State.setPending_response (es : List BusEvent) : (s.setPending es).response = s.response := rfl

/-! ### `State.setResponse` -/

@[simp] theorem State.setResponse_vreg (r : Option Limb) : (s.setResponse r).vreg = s.vreg := rfl
@[simp] theorem State.setResponse_prod (r : Option Limb) : (s.setResponse r).prod = s.prod := rfl
@[simp] theorem State.setResponse_arg (r : Option Limb) : (s.setResponse r).arg = s.arg := rfl
@[simp] theorem State.setResponse_res (r : Option Limb) : (s.setResponse r).res = s.res := rfl
@[simp] theorem State.setResponse_state (r : Option Limb) : (s.setResponse r).state = s.state := rfl
@[simp] theorem State.setResponse_carry (r : Option Limb) : (s.setResponse r).carry = s.carry := rfl
@[simp] theorem State.setResponse_offset (r : Option Limb) : (s.setResponse r).offset = s.offset := rfl
@[simp] theorem State.setResponse_ready (r : Option Limb) : (s.setResponse r).ready = s.ready := rfl
@[simp] theorem State.setResponse_err (r : Option Limb) : (s.setResponse r).err = s.err := rfl
@[simp] theorem State.setResponse_errCode (r : Option Limb) : (s.setResponse r).errCode = s.errCode := rfl
@[simp] theorem State.setResponse_errInfo (r : Option Limb) : (s.setResponse r).errInfo = s.errInfo := rfl
@[simp] theorem State.setResponse_pending (r : Option Limb) : (s.setResponse r).pending = s.pending := rfl
@[simp] theorem State.setResponse_response (r : Option Limb) : (s.setResponse r).response = r := rfl

/-! ### `State.writeV` -/

@[simp] theorem State.writeV_vreg (r : VReg) (x : Vec576) : (s.writeV r x).vreg = s.vreg.set r.val x := rfl
@[simp] theorem State.writeV_prod (r : VReg) (x : Vec576) : (s.writeV r x).prod = s.prod := rfl
@[simp] theorem State.writeV_arg (r : VReg) (x : Vec576) : (s.writeV r x).arg = s.arg := rfl
@[simp] theorem State.writeV_res (r : VReg) (x : Vec576) : (s.writeV r x).res = s.res := rfl
@[simp] theorem State.writeV_state (r : VReg) (x : Vec576) : (s.writeV r x).state = s.state := rfl
@[simp] theorem State.writeV_carry (r : VReg) (x : Vec576) : (s.writeV r x).carry = s.carry := rfl
@[simp] theorem State.writeV_offset (r : VReg) (x : Vec576) : (s.writeV r x).offset = s.offset := rfl
@[simp] theorem State.writeV_ready (r : VReg) (x : Vec576) : (s.writeV r x).ready = s.ready := rfl
@[simp] theorem State.writeV_err (r : VReg) (x : Vec576) : (s.writeV r x).err = s.err := rfl
@[simp] theorem State.writeV_errCode (r : VReg) (x : Vec576) : (s.writeV r x).errCode = s.errCode := rfl
@[simp] theorem State.writeV_errInfo (r : VReg) (x : Vec576) : (s.writeV r x).errInfo = s.errInfo := rfl
@[simp] theorem State.writeV_pending (r : VReg) (x : Vec576) : (s.writeV r x).pending = s.pending := rfl
@[simp] theorem State.writeV_response (r : VReg) (x : Vec576) : (s.writeV r x).response = s.response := rfl

/-! ### Receiving an event, reset and error clear -/

@[simp] theorem takeEvent_vreg (rest : List BusEvent) : (takeEvent rest s).vreg = s.vreg := rfl
@[simp] theorem takeEvent_prod (rest : List BusEvent) : (takeEvent rest s).prod = s.prod := rfl
@[simp] theorem takeEvent_arg (rest : List BusEvent) : (takeEvent rest s).arg = s.arg := rfl
@[simp] theorem takeEvent_res (rest : List BusEvent) : (takeEvent rest s).res = s.res := rfl
@[simp] theorem takeEvent_state (rest : List BusEvent) : (takeEvent rest s).state = s.state := rfl
@[simp] theorem takeEvent_carry (rest : List BusEvent) : (takeEvent rest s).carry = s.carry := rfl
@[simp] theorem takeEvent_offset (rest : List BusEvent) : (takeEvent rest s).offset = s.offset := rfl
@[simp] theorem takeEvent_ready (rest : List BusEvent) : (takeEvent rest s).ready = s.ready := rfl
@[simp] theorem takeEvent_err (rest : List BusEvent) : (takeEvent rest s).err = s.err := rfl
@[simp] theorem takeEvent_errCode (rest : List BusEvent) : (takeEvent rest s).errCode = s.errCode := rfl
@[simp] theorem takeEvent_errInfo (rest : List BusEvent) : (takeEvent rest s).errInfo = s.errInfo := rfl
@[simp] theorem takeEvent_pending (rest : List BusEvent) : (takeEvent rest s).pending = rest := rfl
@[simp] theorem takeEvent_response (rest : List BusEvent) : (takeEvent rest s).response = none := rfl

theorem resetBlock_vreg : (resetBlock s).vreg = State.reset.vreg := rfl
theorem resetBlock_prod : (resetBlock s).prod = State.reset.prod := rfl
theorem resetBlock_arg : (resetBlock s).arg = State.reset.arg := rfl
theorem resetBlock_res : (resetBlock s).res = State.reset.res := rfl
theorem resetBlock_state : (resetBlock s).state = State.reset.state := rfl
theorem resetBlock_carry : (resetBlock s).carry = State.reset.carry := rfl
theorem resetBlock_offset : (resetBlock s).offset = State.reset.offset := rfl
theorem resetBlock_ready : (resetBlock s).ready = State.reset.ready := rfl
theorem resetBlock_err : (resetBlock s).err = State.reset.err := rfl
theorem resetBlock_errCode : (resetBlock s).errCode = State.reset.errCode := rfl
theorem resetBlock_errInfo : (resetBlock s).errInfo = State.reset.errInfo := rfl
theorem resetBlock_pending : (resetBlock s).pending = s.pending := rfl
theorem resetBlock_response : (resetBlock s).response = s.response := rfl

@[simp] theorem clearError_vreg : (clearError s).vreg = s.vreg := rfl
@[simp] theorem clearError_prod : (clearError s).prod = s.prod := rfl
@[simp] theorem clearError_arg : (clearError s).arg = s.arg := rfl
@[simp] theorem clearError_res : (clearError s).res = s.res := rfl
@[simp] theorem clearError_state : (clearError s).state = s.state := rfl
@[simp] theorem clearError_carry : (clearError s).carry = s.carry := rfl
@[simp] theorem clearError_offset : (clearError s).offset = s.offset := rfl
@[simp] theorem clearError_ready : (clearError s).ready = s.ready := rfl
@[simp] theorem clearError_err : (clearError s).err = false := rfl
@[simp] theorem clearError_errCode : (clearError s).errCode = 0 := rfl
@[simp] theorem clearError_errInfo : (clearError s).errInfo = 0 := rfl
@[simp] theorem clearError_pending : (clearError s).pending = s.pending := rfl
@[simp] theorem clearError_response : (clearError s).response = s.response := rfl

/-! ### The next event -/

/-- A state whose next event is `e` is any state with that event put in front. -/
theorem State.setPending_self : s.setPending s.pending = s := rfl

@[simp] theorem takeEvent_setPending (es rest : List BusEvent) : takeEvent rest (s.setPending es) = takeEvent rest s := rfl

end Sys2Proof.Machine
end

