-- ==== Sys2Proof/Laws/Ops.lean ====
section
/-! SUPPORT. One lemma for each shared operation, saying once what it can do: vector registers, limbs, the error record, the Ready check. -/

namespace Sys2Proof.Machine

/-! ### Vector registers -/

theorem State.readV_eq (s : State) (r : VReg) : s.readV r = s.vreg[r.val] := rfl

@[simp] theorem State.readV_writeV_same (s : State) (r : VReg) (x : Vec576) : (s.writeV r x).readV r = x := by
  simp [State.readV, State.writeV]

theorem State.readV_writeV_ne (s : State) (r r' : VReg) (x : Vec576) (h : r ≠ r') :
    (s.writeV r x).readV r' = s.readV r' := by
  have : r.val ≠ r'.val := fun e => h (Fin.ext e)
  simp [State.readV, State.writeV, this]

/-! ### Limbs (00_scope.md R17, 20_memory.md R81) -/

theorem limb_toNat {n : Nat} (x : BitVec n) (i : Nat) : (limb x i).toNat = x.toNat / 2 ^ (64 * i) % 2 ^ 64 := by
  simp [limb, BitVec.extractLsb'_toNat, Nat.shiftRight_eq_div_pow]

/-- The rule's formula with the parts of `x` below, in and above limb `i` spelled out. -/
theorem limbFormula_parts (x v k : Nat) :
    x - x / 2 ^ k % 2 ^ 64 * 2 ^ k + v * 2 ^ k = x % 2 ^ k + (v + x / 2 ^ k / 2 ^ 64 * 2 ^ 64) * 2 ^ k := by
  have h1 : x / 2 ^ k * 2 ^ k + x % 2 ^ k = x := Nat.div_add_mod' x (2 ^ k)
  have h2 : x / 2 ^ k / 2 ^ 64 * 2 ^ 64 + x / 2 ^ k % 2 ^ 64 = x / 2 ^ k := Nat.div_add_mod' _ _
  generalize x / 2 ^ k / 2 ^ 64 = q at *
  generalize x / 2 ^ k % 2 ^ 64 = l at *
  have h3 : x = (q * 2 ^ 64 + l) * 2 ^ k + x % 2 ^ k := by rw [h2, h1]
  have h4 : x - l * 2 ^ k = q * 2 ^ 64 * 2 ^ k + x % 2 ^ k := by
    rw [Nat.add_mul] at h3; omega
  rw [h4, Nat.add_mul]; ring

/-- Writing a limb stays within the width, so the formula is not truncated (20_memory.md R81). -/
theorem setLimb_toNat {n : Nat} (x : BitVec n) (i : Nat) (v : Limb) (h : 64 * i + 64 ≤ n) :
    (setLimb x i v).toNat = x.toNat - x.toNat / 2 ^ (64 * i) % 2 ^ 64 * 2 ^ (64 * i) + v.toNat * 2 ^ (64 * i) := by
  rw [setLimb, BitVec.toNat_ofNat, limb_toNat, Nat.mul_comm (2 ^ (64 * i)), Nat.mul_comm (2 ^ (64 * i))]
  apply Nat.mod_eq_of_lt
  rw [limbFormula_parts]
  have hx := x.isLt
  have hv := v.isLt
  obtain ⟨d, rfl⟩ : ∃ d, n = 64 * i + (64 + d) := ⟨n - 64 * i - 64, by omega⟩
  rw [Nat.pow_add] at hx ⊢
  have hk : 0 < 2 ^ (64 * i) := by positivity
  have h1 : x.toNat / 2 ^ (64 * i) < 2 ^ (64 + d) := Nat.div_lt_of_lt_mul hx
  rw [Nat.pow_add] at h1 ⊢
  have h2 : x.toNat / 2 ^ (64 * i) / 2 ^ 64 < 2 ^ d := Nat.div_lt_of_lt_mul h1
  have h3 := Nat.mod_lt x.toNat hk
  have h4 : v.toNat + x.toNat / 2 ^ (64 * i) / 2 ^ 64 * 2 ^ 64 + 1 ≤ 2 ^ 64 * 2 ^ d := by
    have : (x.toNat / 2 ^ (64 * i) / 2 ^ 64 + 1) * 2 ^ 64 ≤ 2 ^ d * 2 ^ 64 := Nat.mul_le_mul_right _ h2
    have e : 2 ^ 64 * 2 ^ d = 2 ^ d * 2 ^ 64 := Nat.mul_comm _ _
    omega
  have h5 := Nat.mul_le_mul_right (2 ^ (64 * i)) h4
  have e : 2 ^ (64 * i) * (2 ^ 64 * 2 ^ d) = 2 ^ 64 * 2 ^ d * 2 ^ (64 * i) := Nat.mul_comm _ _
  rw [e]
  rw [Nat.add_mul, one_mul] at h5
  omega

/-- A limb reads back what was written to it. -/
theorem limb_setLimb_same {n : Nat} (x : BitVec n) (i : Nat) (v : Limb) (h : 64 * i + 64 ≤ n) :
    limb (setLimb x i v) i = v := by
  apply BitVec.eq_of_toNat_eq
  rw [limb_toNat, setLimb_toNat x i v h, limbFormula_parts]
  have hk : 0 < 2 ^ (64 * i) := by positivity
  rw [Nat.add_mul_div_right _ _ hk, Nat.div_eq_of_lt (Nat.mod_lt _ hk), Nat.zero_add,
    Nat.add_mul_mod_self_right, Nat.mod_eq_of_lt v.isLt]

/-- Writing a limb leaves the other limbs alone. -/
theorem limb_setLimb_ne {n : Nat} (x : BitVec n) (i j : Nat) (v : Limb) (h : 64 * i + 64 ≤ n) (hij : i ≠ j) :
    limb (setLimb x i v) j = limb x j := by
  apply BitVec.eq_of_toNat_eq
  rw [limb_toNat, limb_toNat, setLimb_toNat x i v h, limbFormula_parts]
  have hk : 0 < 2 ^ (64 * i) := by positivity
  rcases Nat.lt_or_gt_of_ne hij with hlt | hgt
  · -- a limb above: the quotient by 2^(64i+64) is unchanged
    obtain ⟨d, rfl⟩ : ∃ d, j = i + 1 + d := ⟨j - i - 1, by omega⟩
    have e : 2 ^ (64 * (i + 1 + d)) = 2 ^ (64 * i) * (2 ^ 64 * 2 ^ (64 * d)) := by
      rw [← Nat.pow_add, ← Nat.pow_add]; congr 1; omega
    rw [e, ← Nat.div_div_eq_div_mul, ← Nat.div_div_eq_div_mul, ← Nat.div_div_eq_div_mul,
      ← Nat.div_div_eq_div_mul, Nat.add_mul_div_right _ _ hk, Nat.div_eq_of_lt (Nat.mod_lt _ hk), Nat.zero_add,
      Nat.add_mul_div_right _ _ (by positivity), Nat.div_eq_of_lt v.isLt, Nat.zero_add]
  · -- a limb below: the remainder by 2^(64i) is unchanged
    obtain ⟨d, rfl⟩ : ∃ d, i = j + 1 + d := ⟨i - j - 1, by omega⟩
    have e : 2 ^ (64 * (j + 1 + d)) = 2 ^ (64 * j) * 2 ^ 64 * 2 ^ (64 * d) := by
      rw [← Nat.pow_add, ← Nat.pow_add]; congr 1; omega
    have key : ∀ y : Nat, y / 2 ^ (64 * j) % 2 ^ 64 = y % (2 ^ (64 * j) * 2 ^ 64) / 2 ^ (64 * j) := fun y => by
      rw [Nat.mod_mul_right_div_self]
    rw [key, key x.toNat]
    congr 1
    rw [e, show ∀ q, q * (2 ^ (64 * j) * 2 ^ 64 * 2 ^ (64 * d)) =
        2 ^ (64 * j) * 2 ^ 64 * (2 ^ (64 * d) * q) from fun q => by ring,
      Nat.add_mul_mod_self_left, Nat.mod_mul_right_mod]

/-! ### The error record (60_exceptions.md R302) -/

/-- All that raising an error can do. -/
theorem raiseError_cases (c : ErrorCode) (info : Nat) (s : State) :
    (s.err = true ∧ raiseError c info s = s) ∨
      (s.err = false ∧ raiseError c info s = s.setError true c.code (BitVec.ofNat 32 info)) := by
  cases h : s.err <;> simp [raiseError, h]

theorem raiseError_of_noError {s : State} (h : s.err = false) (c : ErrorCode) (info : Nat) :
    raiseError c info s = s.setError true c.code (BitVec.ofNat 32 info) := by simp [raiseError, h]

theorem raiseError_of_error {s : State} (h : s.err = true) (c : ErrorCode) (info : Nat) :
    raiseError c info s = s := by simp [raiseError, h]

/-- Every code is 1 to 7 (60_exceptions.md R301). -/
theorem ErrorCode.code_range (c : ErrorCode) : 1 ≤ c.code.toNat ∧ c.code.toNat ≤ 7 := by cases c <;> decide

/-- All that a command behind the Ready check can do. -/
theorem requireReady_cases (i : Instr) (run : State → State) (s : State) :
    (s.ready = true ∧ requireReady i run s = .next (run s)) ∨
      (s.ready = false ∧ requireReady i run s = .next (raiseError .notReady (commandInfo i) s)) := by
  cases h : s.ready <;> simp [requireReady, h]

theorem requireReady_of_ready {s : State} (h : s.ready = true) (i : Instr) (run : State → State) :
    requireReady i run s = .next (run s) := by simp [requireReady, h]

end Sys2Proof.Machine
end

