-- ==== Sys2Proof/Laws/Window.lean ====
section
/-! SUPPORT. The register map: looking an offset up and the offset of a register agree (20_memory.md R72 to R75), and one lemma for each kind of register write. -/

namespace Sys2Proof.Machine

/-- Every register's offset is 8-aligned and inside the window (20_memory.md R71, R72). -/
theorem WinReg.windowOffset_bounds (r : WinReg) : r.windowOffset % 8 = 0 ∧ r.windowOffset < 0x800 := by
  cases r with
  | state i => simp only [WinReg.windowOffset]; omega
  | a i => simp only [WinReg.windowOffset]; omega
  | prod i => simp only [WinReg.windowOffset]; omega
  | v r i => simp only [WinReg.windowOffset]; omega
  | _ => decide

theorem WinReg.windowOffset_toNat (r : WinReg) : (BitVec.ofNat 11 r.windowOffset).toNat = r.windowOffset := by
  rw [BitVec.toNat_ofNat, Nat.mod_eq_of_lt r.windowOffset_bounds.2]

/-- Looking up a register's offset gives the register (20_memory.md R72 to R74). -/
theorem winLookup_windowOffset (r : WinReg) : winLookup (BitVec.ofNat 11 r.windowOffset) = some r := by
  have vectors : ∀ (r : VReg) (i : Fin 9),
      winLookup (BitVec.ofNat 11 (WinReg.v r i).windowOffset) = some (.v r i) := by decide +kernel
  have products : ∀ i : Fin 18, winLookup (BitVec.ofNat 11 (WinReg.prod i).windowOffset) = some (.prod i) := by
    decide +kernel
  have states : ∀ i : Fin 9, winLookup (BitVec.ofNat 11 (WinReg.state i).windowOffset) = some (.state i) := by
    decide +kernel
  have constants : ∀ i : Fin 9, winLookup (BitVec.ofNat 11 (WinReg.a i).windowOffset) = some (.a i) := by
    decide +kernel
  cases r with
  | v r i => exact vectors r i
  | prod i => exact products i
  | state i => exact states i
  | a i => exact constants i
  | _ => decide +kernel

/-- The offset of the register that a byte of the window belongs to (20_memory.md R72, R77). -/
theorem windowOffset_of_winLookup (off : WinOff) (r : WinReg) (h : winLookup off = some r) :
    r.windowOffset = off.toNat / 8 * 8 := by
  have table : ∀ off : Fin 2048, ∀ r ∈ winLookup (BitVec.ofFin off), r.windowOffset = off.val / 8 * 8 := by
    decide +kernel
  exact table off.toFin r h

/-- An aligned offset maps to the register at it, and to none where no register stands (20_memory.md R75). -/
theorem winLookup_eq_some_iff (off : WinOff) (h : off.toNat % 8 = 0) (r : WinReg) :
    winLookup off = some r ↔ r.windowOffset = off.toNat := by
  constructor
  · intro hr
    have := windowOffset_of_winLookup off r hr
    omega
  · intro hr
    have : off = BitVec.ofNat 11 r.windowOffset := by
      apply BitVec.eq_of_toNat_eq
      rw [WinReg.windowOffset_toNat, hr]
    rw [this, winLookup_windowOffset]

theorem winLookup_eq_none_iff (off : WinOff) (h : off.toNat % 8 = 0) :
    winLookup off = none ↔ ∀ r : WinReg, r.windowOffset ≠ off.toNat := by
  rw [Option.eq_none_iff_forall_ne_some]
  exact forall_congr' fun r => not_congr (winLookup_eq_some_iff off h r)

/-- Registers at one offset are one register. -/
theorem WinReg.windowOffset_injective {r r' : WinReg} (h : r.windowOffset = r'.windowOffset) : r = r' := by
  have h1 := winLookup_windowOffset r
  rw [h, winLookup_windowOffset r'] at h1
  exact (Option.some.inj h1).symm

/-! ### Writes (20_memory.md R80 to R83) -/

/-- All that a `CTRL` write can do (20_memory.md R82). -/
theorem writeCtrl_cases (v : Limb) (s : State) :
    (4 ≤ v.toNat ∧ writeCtrl v s = raiseError .value 0x010 s) ∨
      ((v = 1 ∨ v = 3) ∧ writeCtrl v s = resetBlock s) ∨
      (v = 2 ∧ writeCtrl v s = clearError s) ∨ (v = 0 ∧ writeCtrl v s = s) := by
  by_cases h : 4 ≤ v.toNat
  · left
    refine ⟨h, ?_⟩
    have : v >>> 2 ≠ 0 := fun e => by
      have := congrArg BitVec.toNat e
      simp [BitVec.toNat_ushiftRight, Nat.shiftRight_eq_div_pow] at this
      omega
    rw [writeCtrl, if_pos this]; rfl
  · right
    have hv : v = 0 ∨ v = 1 ∨ v = 2 ∨ v = 3 := by
      have : v = BitVec.ofNat 64 v.toNat := by simp
      have hn : v.toNat = 0 ∨ v.toNat = 1 ∨ v.toNat = 2 ∨ v.toNat = 3 := by omega
      rcases hn with h | h | h | h <;> rw [h] at this <;> simp [this]
    rcases hv with rfl | rfl | rfl | rfl
    · exact .inr (.inr ⟨rfl, rfl⟩)
    · exact .inl ⟨.inl rfl, rfl⟩
    · exact .inr (.inl ⟨rfl, rfl⟩)
    · exact .inl ⟨.inr rfl, rfl⟩

/-- All that an `OFFSET` write can do (20_memory.md R83). -/
theorem writeOffset_cases (v : Limb) (s : State) :
    ((v.toNat % 48 = 0 ∧ v.toNat ≤ 576) ∧ writeOffset v s = s.setOffset (v.setWidth 10)) ∨
      (¬ (v.toNat % 48 = 0 ∧ v.toNat ≤ 576) ∧ writeOffset v s = raiseError .value 0x038 s) := by
  by_cases h : v.toNat % 48 = 0 ∧ v.toNat ≤ 576
  · exact .inl ⟨h, if_pos h⟩
  · exact .inr ⟨h, if_neg h⟩

/-- All that a `CARRY` write can do (20_memory.md R83). -/
theorem writeCarry_cases (v : Limb) (s : State) :
    (v.toNat ≤ 1 ∧ writeCarry v s = s.setCarry (v.setWidth 1)) ∨
      (¬ v.toNat ≤ 1 ∧ writeCarry v s = raiseError .value 0x040 s) := by
  by_cases h : v.toNat ≤ 1
  · exact .inl ⟨h, if_pos h⟩
  · exact .inr ⟨h, if_neg h⟩

end Sys2Proof.Machine
end

