-- ==== Sys2Proof/Laws/Bus.lean ====
section
/-! SUPPORT. One lemma for each thing a bus event can do: the step, reads, writes and the command issue (20_memory.md R78, R85, 30_encoding.md R120). -/

namespace Sys2Proof.Machine

/-- A step with a next event delivers it. -/
theorem step_setPending_cons (e : BusEvent) (rest : List BusEvent) (s : State) :
    step (s.setPending (e :: rest)) = deliver e (takeEvent rest s) := rfl

theorem legalAccess_iff (off : WinOff) (n : Nat) : legalAccess off n = true ↔ n = 8 ∧ off.toNat % 8 = 0 := by
  simp [legalAccess]

/-- All that a read can do (20_memory.md R78). -/
theorem busRead_cases (off : WinOff) (n : Nat) (s : State) :
    (¬ (n = 8 ∧ off.toNat % 8 = 0) ∧
        busRead off n s = (raiseError .access off.toNat s).setResponse (some 0)) ∨
      ((n = 8 ∧ off.toNat % 8 = 0) ∧ (∀ r : WinReg, r.windowOffset ≠ off.toNat) ∧
        busRead off n s = (raiseError .addr off.toNat s).setResponse (some 0)) ∨
      ((n = 8 ∧ off.toNat % 8 = 0) ∧ ∃ r : WinReg, r.windowOffset = off.toNat ∧
        busRead off n s = s.setResponse (some (regValue s r))) := by
  by_cases h : n = 8 ∧ off.toNat % 8 = 0
  · right
    have hl := (legalAccess_iff off n).mpr h
    cases hw : winLookup off with
    | none =>
      left
      refine ⟨h, (winLookup_eq_none_iff off h.2).mp hw, ?_⟩
      rw [busRead, if_pos hl, hw]
    | some r =>
      right
      refine ⟨h, r, (winLookup_eq_some_iff off h.2 r).mp hw, ?_⟩
      rw [busRead, if_pos hl, hw]
  · left
    refine ⟨h, ?_⟩
    rw [busRead, if_neg (fun hl => h ((legalAccess_iff off n).mp hl))]

/-- All that a write can do (20_memory.md R85). -/
theorem busWrite_cases (off : WinOff) (n : Nat) (v : Limb) (s : State) :
    (¬ (n = 8 ∧ off.toNat % 8 = 0) ∧ busWrite off n v s = .next (raiseError .access off.toNat s)) ∨
      ((n = 8 ∧ off.toNat % 8 = 0) ∧ (∀ r : WinReg, r.windowOffset ≠ off.toNat) ∧
        busWrite off n v s = .next (raiseError .addr off.toNat s)) ∨
      ((n = 8 ∧ off = cmdOffset) ∧ busWrite off n v s = issueCommand v s) ∨
      (n = 8 ∧ ∃ r : WinReg, r ≠ .cmd ∧ off = BitVec.ofNat 11 r.windowOffset ∧
        busWrite off n v s = .next (writeReg r v s)) := by
  by_cases h : n = 8 ∧ off.toNat % 8 = 0
  · right
    have hl := (legalAccess_iff off n).mpr h
    cases hw : winLookup off with
    | none =>
      left
      refine ⟨h, (winLookup_eq_none_iff off h.2).mp hw, ?_⟩
      rw [busWrite, if_pos hl, hw]
    | some r =>
      right
      have hr := (winLookup_eq_some_iff off h.2 r).mp hw
      have ho : off = BitVec.ofNat 11 r.windowOffset := by
        apply BitVec.eq_of_toNat_eq
        rw [WinReg.windowOffset_toNat, hr]
      by_cases hc : r = .cmd
      · left
        subst hc
        refine ⟨⟨h.1, ho⟩, ?_⟩
        rw [busWrite, if_pos hl, hw]
      · right
        refine ⟨h.1, r, hc, ho, ?_⟩
        rw [busWrite, if_pos hl, hw]
        cases r <;> first | rfl | exact absurd rfl hc
  · left
    refine ⟨h, ?_⟩
    rw [busWrite, if_neg (fun hl => h ((legalAccess_iff off n).mp hl))]

/-- An 8-byte write to a register other than `CMD` (20_memory.md R85). -/
theorem busWrite_register (r : WinReg) (hr : r ≠ .cmd) (v : Limb) (s : State) :
    busWrite (BitVec.ofNat 11 r.windowOffset) 8 v s = .next (writeReg r v s) := by
  rcases busWrite_cases (BitVec.ofNat 11 r.windowOffset) 8 v s with h | h | h | ⟨-, r', -, h, e⟩
  · exact absurd ⟨rfl, by rw [WinReg.windowOffset_toNat]; exact r.windowOffset_bounds.1⟩ h.1
  · exact absurd r.windowOffset_toNat.symm (h.2.1 r)
  · have h1 := congrArg BitVec.toNat h.1.2
    rw [cmdOffset, WinReg.windowOffset_toNat, WinReg.windowOffset_toNat] at h1
    exact absurd (WinReg.windowOffset_injective h1) hr
  · have h1 := congrArg BitVec.toNat h
    rw [WinReg.windowOffset_toNat, WinReg.windowOffset_toNat] at h1
    rw [WinReg.windowOffset_injective h1, ← h, e]

/-- An 8-byte write to `CMD` issues a command (20_memory.md R84). -/
theorem busWrite_cmd (v : Limb) (s : State) : busWrite cmdOffset 8 v s = issueCommand v s := rfl

/-- All that issuing a command can do (30_encoding.md R120). -/
theorem issueCommand_cases (v : Limb) (s : State) :
    (s.err = true ∧ issueCommand v s = .next s) ∨
      (s.err = false ∧ ∃ e, decodeCommand v = .error e ∧
        issueCommand v s = .next (s.setError true (decodeErrorCode e).code (BitVec.ofNat 32 (v.toNat % 2 ^ 32)))) ∨
      (s.err = false ∧ ∃ i, decodeCommand v = .ok i ∧ issueCommand v s = exec i s) := by
  cases h : s.err with
  | true => exact .inl ⟨rfl, by simp [issueCommand, h]⟩
  | false =>
    right
    cases hd : decodeCommand v with
    | error e =>
      left
      refine ⟨rfl, e, rfl, ?_⟩
      simp only [issueCommand, h, hd, raiseError_of_noError h]
      rfl
    | ok i =>
      right
      refine ⟨rfl, i, rfl, ?_⟩
      simp [issueCommand, h, hd]

end Sys2Proof.Machine
end

