-- ==== Sys2Proof/Laws/Decode.lean ====
section
/-! SUPPORT. The fields of a command word: splitting and packing are inverse; the opcode map's lookup (30_encoding.md R111, R114). -/

namespace Sys2Proof

/-- The fields packed into a word are read back. -/
theorem CommandFields.split_pack (f : CommandFields) : CommandFields.split f.pack = f := by
  obtain ⟨opc, rd, z0, ra, z1, rb, z2⟩ := f
  simp only [CommandFields.split, CommandFields.pack, CommandFields.mk.injEq]
  refine ⟨?_, ?_, ?_, ?_, ?_, ?_, ?_⟩ <;>
    · ext i hi
      simp only [BitVec.getElem_extractLsb', BitVec.getLsbD_append]
      simp only [← BitVec.getLsbD_eq_getElem]
      repeat' split
      all_goals first | omega | (congr 1; omega)

/-- A word is packed from its fields: every bit belongs to one field. -/
theorem CommandFields.pack_split (w : CmdWord) : (CommandFields.split w).pack = w := by
  have bits : ∀ i, i < 32 → (CommandFields.split w).pack.getLsbD i = w.getLsbD i := by
    intro i hi
    simp only [CommandFields.split, CommandFields.pack, BitVec.getLsbD_append, BitVec.getLsbD_extractLsb']
    repeat' split
    all_goals
      rw [decide_eq_true (by omega), Bool.true_and]
      congr 1
      omega
  exact BitVec.eq_of_getLsbD_eq fun i hi => bits i hi

/-- The lookup finds an opcode exactly by its byte (30_encoding.md R114). -/
theorem Opcode.lookup_eq_some_iff (b : BitVec 8) (op : Opcode) : Opcode.lookup b = some op ↔ op.byte = b := by
  have table : ∀ b : BitVec 8, ∀ op ∈ Opcode.all, (Opcode.lookup b = some op ↔ op.byte = b) := by decide +kernel
  exact table b op (by cases op <;> decide)

theorem Opcode.lookup_byte (op : Opcode) : Opcode.lookup op.byte = some op :=
  (Opcode.lookup_eq_some_iff _ _).mpr rfl

theorem Opcode.lookup_eq_none_iff (b : BitVec 8) : Opcode.lookup b = none ↔ ∀ op : Opcode, op.byte ≠ b := by
  rw [Option.eq_none_iff_forall_ne_some]
  exact forall_congr' fun op => not_congr (Opcode.lookup_eq_some_iff b op)

@[simp] theorem vregOfField_fieldOfVreg (r : VReg) : vregOfField (fieldOfVreg r) = r := rfl

@[simp] theorem fieldOfVreg_vregOfField (x : BitVec 3) : fieldOfVreg (vregOfField x) = x := rfl

/-- All that decoding a word can answer (30_encoding.md R116, R117). -/
theorem decode_cases (w : CmdWord) :
    ((∀ op : Opcode, op.byte ≠ (CommandFields.split w).opc) ∧ decode w = .error .illegalOpcode) ∨
      ∃ op : Opcode, op.byte = (CommandFields.split w).opc ∧
        (((CommandFields.split w).wellFormed op.use = false ∧ decode w = .error .reservedField) ∨
          ((CommandFields.split w).wellFormed op.use = true ∧
            decode w = .ok (op.build (vregOfField (CommandFields.split w).rd)
              (vregOfField (CommandFields.split w).ra) (vregOfField (CommandFields.split w).rb)))) := by
  cases h : Opcode.lookup (CommandFields.split w).opc with
  | none =>
    left
    refine ⟨(Opcode.lookup_eq_none_iff _).mp h, ?_⟩
    simp only [decode, h]
  | some op =>
    right
    refine ⟨op, (Opcode.lookup_eq_some_iff _ _).mp h, ?_⟩
    cases hw : (CommandFields.split w).wellFormed op.use with
    | false => left; exact ⟨rfl, by simp only [decode, h, hw]; rfl⟩
    | true => right; exact ⟨rfl, by simp only [decode, h, hw]; rfl⟩

end Sys2Proof
end

