-- ==== Sys2Proof/Laws/Kernel.lean ====
section
/-! SUPPORT. One lemma for each function of the arithmetic kernel: no value is truncated (40_arith.md R141 to R145). -/

set_option exponentiation.threshold 1200

namespace Sys2Proof.Machine

/-- `Multiply` is exact: the product fits 1152 bits (40_arith.md R141). -/
theorem multiply_toNat (a b : Vec576) : (multiply a b).toNat = a.toNat * b.toNat := by
  rw [multiply, BitVec.toNat_ofNat, Nat.mul_comm]
  apply Nat.mod_eq_of_lt
  have h := Nat.mul_lt_mul'' a.isLt b.isLt
  rwa [← Nat.pow_add] at h

theorem foldPass_eq (y : Nat) : foldPass y = y % 2 ^ 576 + (2 ^ 240 - 1) * (y / 2 ^ 576) := by
  rw [foldPass, Nat.shiftRight_eq_div_pow]

/-- `2^576 = m + 2^240 − 1`, the identity the fold loop rests on (40_arith.md R142). -/
theorem modulus_add : Config.modulus + (2 ^ 240 - 1) = 2 ^ 576 := by decide +kernel

/-- A pass removes a multiple of `m` (40_arith.md R143 item 2). -/
theorem foldPass_add (y : Nat) : foldPass y + Config.modulus * (y / 2 ^ 576) = y := by
  have := foldPass_eq y
  unfold Config.modulus
  omega

/-- A pass below `2^576` changes nothing. -/
theorem foldPass_of_lt {y : Nat} (h : y < 2 ^ 576) : foldPass y = y := by
  rw [foldPass_eq, Nat.mod_eq_of_lt h, Nat.div_eq_of_lt h]; omega

/-- Below `2^576` the loop has ended (40_arith.md R142). -/
theorem foldLoop_of_lt (fuel : Nat) {y : Nat} (h : y < 2 ^ 576) : foldLoop fuel y = y := by
  cases fuel with
  | zero => rfl
  | succ n => rw [foldLoop, if_neg (Nat.not_le.mpr h)]

/-- The loop with room for one more pass: a pass below `2^576` would change nothing. -/
theorem foldLoop_succ (fuel y : Nat) : foldLoop (fuel + 1) y = foldLoop fuel (foldPass y) := by
  by_cases h : 2 ^ 576 ≤ y
  · rw [foldLoop, if_pos h]
  · have h' := Nat.not_le.mp h
    rw [foldPass_of_lt h', foldLoop_of_lt _ h', foldLoop_of_lt _ h']

/-- Three passes are enough for every 1152-bit value, so the fuel of `reduce` never runs out (40_arith.md R143 item 4). -/
theorem foldLoop_three_lt {x : Nat} (h : x < 2 ^ 1152) : foldLoop 3 x < 2 ^ 576 := by
  rw [foldLoop_succ, foldLoop_succ, foldLoop_succ, foldLoop]
  rw [foldPass_eq x]
  generalize hx : x % 2 ^ 576 + (2 ^ 240 - 1) * (x / 2 ^ 576) = y
  have hy : y < 2 ^ 816 := by omega
  rw [foldPass_eq y]
  generalize hz : y % 2 ^ 576 + (2 ^ 240 - 1) * (y / 2 ^ 576) = z
  have hz' : z < 2 ^ 576 + 2 ^ 480 := by omega
  rw [foldPass_eq z]; omega

/-- `Reduce` returns what the loop ends at, untruncated (40_arith.md R142, R143 item 1). -/
theorem reduce_toNat (x : Vec1152) : (reduce x).toNat = foldLoop 3 x.toNat := by
  unfold reduce
  exact (BitVec.toNat_ofNat _ _).trans (Nat.mod_eq_of_lt (foldLoop_three_lt x.isLt))

/-- One step of the power loop (40_arith.md R145). -/
theorem powerLoop_succ (b : Vec576) (e : Limb) (n : Nat) (r : Vec576) :
    powerLoop b e (n + 1) r =
      powerLoop b e n (if e.getLsbD n then mulMod (mulMod r r) b else mulMod r r) := rfl

end Sys2Proof.Machine
end

