-- ==== Sys2Proof/Laws/PerInstr.lean ====
section
/-! SUPPORT. Facts about every instruction as syntax, one lemma per constructor of `Instr`. -/

namespace Sys2Proof.Laws.FieldsWellFormed

/-- The fields a command is encoded with pass the checks of its opcode: reserved bits and unused fields are 0 (30_encoding.md R117). -/
def Statement (i : Instr) : Prop := i.fields.wellFormed i.opcode.use = true ∧ i.fields.opc = i.opcode.byte

theorem nop : Statement .nop := ⟨rfl, rfl⟩

theorem mul (ra rb : VReg) : Statement (.mul ra rb) := ⟨rfl, rfl⟩

theorem red (rd : VReg) : Statement (.red rd) := ⟨rfl, rfl⟩

theorem mulmod (rd ra rb : VReg) : Statement (.mulmod rd ra rb) := ⟨rfl, rfl⟩

theorem powmod (rd ra : VReg) : Statement (.powmod rd ra) := ⟨rfl, rfl⟩

theorem lda (rd : VReg) : Statement (.lda rd) := ⟨rfl, rfl⟩

theorem mov (rd ra : VReg) : Statement (.mov rd ra) := ⟨rfl, rfl⟩

theorem tolcg (rd : VReg) : Statement (.tolcg rd) := ⟨rfl, rfl⟩

theorem toranlux (ra : VReg) : Statement (.toranlux ra) := ⟨rfl, rfl⟩

theorem seed : Statement .seed := ⟨rfl, rfl⟩

theorem advance : Statement .advance := ⟨rfl, rfl⟩

theorem next : Statement .next := ⟨rfl, rfl⟩

theorem skip : Statement .skip := ⟨rfl, rfl⟩

theorem nextdbl : Statement .nextdbl := ⟨rfl, rfl⟩

theorem restore : Statement .restore := ⟨rfl, rfl⟩

end Sys2Proof.Laws.FieldsWellFormed

namespace Sys2Proof.Laws.BuiltFromFields

/-- A command is what its opcode builds of the registers in its fields (30_encoding.md R112, R113). -/
def Statement (i : Instr) : Prop :=
  i.opcode.build (vregOfField i.fields.rd) (vregOfField i.fields.ra) (vregOfField i.fields.rb) = i

theorem nop : Statement .nop := rfl

theorem mul (ra rb : VReg) : Statement (.mul ra rb) := rfl

theorem red (rd : VReg) : Statement (.red rd) := rfl

theorem mulmod (rd ra rb : VReg) : Statement (.mulmod rd ra rb) := rfl

theorem powmod (rd ra : VReg) : Statement (.powmod rd ra) := rfl

theorem lda (rd : VReg) : Statement (.lda rd) := rfl

theorem mov (rd ra : VReg) : Statement (.mov rd ra) := rfl

theorem tolcg (rd : VReg) : Statement (.tolcg rd) := rfl

theorem toranlux (ra : VReg) : Statement (.toranlux ra) := rfl

theorem seed : Statement .seed := rfl

theorem advance : Statement .advance := rfl

theorem next : Statement .next := rfl

theorem skip : Statement .skip := rfl

theorem nextdbl : Statement .nextdbl := rfl

theorem restore : Statement .restore := rfl

end Sys2Proof.Laws.BuiltFromFields
end

