-- ==== Sys2Proof/Tests/Slice0.lean ====
section
/-! SUPPORT. The model's own tests. Expected values come from spec/95_test_vectors.md, whose section stands in each docstring. The theorems `witness_…` show, for a statement with hypotheses, concrete values that meet them. -/

namespace Sys2Proof.Machine.Tests

open Sys2Proof Sys2Proof.Machine

-- One theorem at a time: a theorem that waits for the kernel holds a thread of its own.
set_option Elab.async false

/-! ### Helpers -/

/-- The next state, if there is one. -/
def nextOf : Host.Outcome State Fault Refusal → Option State
  | .next t => some t
  | .fault _ => none
  | .refused _ => none

/-- The command a word decodes to, if any. -/
def decoded (w : CmdWord) : Option Instr := (decode w).toOption

/-- A register value from its limbs, limb 0 first. -/
def ofLimbs (n : Nat) (ls : List Limb) : BitVec n := BitVec.ofNat n (valueOfLimbs ls)

/-- A limb of ones, `F` of the vectors. -/
def limbF : Limb := 0xFFFFFFFFFFFFFFFF#64

def ones : Vec576 := BitVec.allOnes 576

/-- The modulus as a register value. -/
def vecM : Vec576 := BitVec.ofNat 576 Config.modulus

/-- The reset state with three vector registers loaded. -/
def withV (x1 x2 x3 : Vec576) : State :=
  ((State.reset.writeV 1 x1).writeV 2 x2).writeV 3 x3

/-- The reset state, Ready. -/
def ready : State := State.reset.setReady true

/-- The reset state with an error recorded (that of `CMD NEXT` in Uninitialized). -/
def failed : State := State.reset.setError true 3 0x12

/-- A Ready generator in the first block of seed 314159265 (section 5.1), at a given offset. -/
def seeded (o : BitVec 10) : State :=
  { ready with
    state := ofLimbs 576 [0x56f723d075012181, 0x265f853e921add2c, 0xa6a7054394a421c5, 0xcd2e70d0f9b19195,
      0x7ce7d57ba8b98182, 0x3980ec83b845f4a0, 0x9059d8491278f705, 0xd94264c5634e05dd, 0x2b0a44aaf5502f7e]
    offset := o }

/-- Block 1 of seed 314159265 (section 5.1). -/
def block1 : Vec576 :=
  ofLimbs 576 [0x825ca842e3eac49d, 0x09903a9048b66375, 0x3682dff05a6bffdc, 0x91e619683a185da9,
    0x5df1345a33417c10, 0xd604e2c7d5b820c6, 0x181027ae6120ffe7, 0x9f4c975b9193be4e, 0xbb7547aaa5fd9813]

/-- The state after one step that receives `e`. -/
def receive (e : BusEvent) (s : State) : Option State := nextOf (step (s.setPending [e]))

/-- What `STATUS` reads after one step that receives `e`. -/
def statusAfter (e : BusEvent) (s : State) : Option Limb := (receive e s).map statusWord

/-- A write of a raw word to `CMD`. -/
def issue (v : Limb) : BusEvent := .write 0x020#11 8 v

/-! ### WellFormed: each check refuses an ill-formed word (30_encoding.md R117) -/

/-- The fields of `MULMOD v1, v2, v3`. -/
def mulmodFields : CommandFields := ⟨0x03, 1, 0, 2, 0, 3, 0⟩

/-- The fields of `NEXT`. -/
def nextFields : CommandFields := ⟨0x12, 0, 0, 0, 0, 0, 0⟩

theorem test_wf_accepts : mulmodFields.wellFormed Opcode.mulmod.use = true ∧
    nextFields.wellFormed Opcode.next.use = true := by decide
theorem test_wf_refuses_z0 : { mulmodFields with z0 := 1 }.wellFormed Opcode.mulmod.use = false := by decide
theorem test_wf_refuses_z1 : { mulmodFields with z1 := 1 }.wellFormed Opcode.mulmod.use = false := by decide
theorem test_wf_refuses_z2 : { mulmodFields with z2 := 1 }.wellFormed Opcode.mulmod.use = false := by decide
theorem test_wf_refuses_rd : { nextFields with rd := 1 }.wellFormed Opcode.next.use = false := by decide
theorem test_wf_refuses_ra : { nextFields with ra := 1 }.wellFormed Opcode.next.use = false := by decide
theorem test_wf_refuses_rb : { nextFields with rb := 1 }.wellFormed Opcode.next.use = false := by decide

/-! ### Decoding, the words of section 2 -/

theorem test_decode_nop : decoded 0x00000000#32 = some .nop := by decide
theorem test_decode_mul : decoded 0x00021001#32 = some (.mul 1 2) := by decide
theorem test_decode_red : decoded 0x00000302#32 = some (.red 3) := by decide
theorem test_decode_mulmod : decoded 0x00032103#32 = some (.mulmod 1 2 3) := by decide
theorem test_decode_powmod : decoded 0x00001104#32 = some (.powmod 1 1) := by decide
theorem test_decode_lda : decoded 0x00000205#32 = some (.lda 2) := by decide
theorem test_decode_mov : decoded 0x00001306#32 = some (.mov 3 1) := by decide
theorem test_decode_tolcg : decoded 0x00000108#32 = some (.tolcg 1) := by decide
theorem test_decode_toranlux : decoded 0x00005009#32 = some (.toranlux 5) := by decide
theorem test_decode_seed : decoded 0x00000010#32 = some .seed := by decide
theorem test_decode_advance : decoded 0x00000011#32 = some .advance := by decide
theorem test_decode_next : decoded 0x00000012#32 = some .next := by decide
theorem test_decode_skip : decoded 0x00000013#32 = some .skip := by decide
theorem test_decode_nextdbl : decoded 0x00000014#32 = some .nextdbl := by decide
theorem test_decode_restore : decoded 0x00000015#32 = some .restore := by decide

/-- `MULMOD v4, v1, v3` written out by its fields: Z2, RB = 3, Z1, RA = 1, Z0, RD = 4, OPC = 0x03 (R111). -/
theorem test_decode_bit_by_bit : decode 0b0000000000000_011_0_001_0_100_00000011#32 = .ok (.mulmod 4 1 3) := by rfl

theorem test_encode_all_fields_equal : encode (.mulmod 7 7 7) = 0x00077703#32 := by decide
theorem test_encode_mul : encode (.mul 7 7) = 0x00077001#32 := by decide
theorem test_table_word : decodeTableWord 32 0x00031403 = some (.mulmod 4 1 3) := by decide

/-- A line of assembler in mixed case (30_encoding.md R121). -/
theorem test_asm : parseAsm ['M', 'u', 'l', ' ', 'V', '1', ',', ' ', 'v', '2'] = some (.mul 1 2) := by decide

/-! ### The error cases of section 2, as `STATUS` reads after them -/

theorem test_issue_07 : statusAfter (issue 0x00000007) State.reset = some 0x00070102 := by decide +kernel
theorem test_issue_ff : statusAfter (issue 0x000000FF) State.reset = some 0x00FF0102 := by decide +kernel
theorem test_issue_rd_set : statusAfter (issue 0x00000112) ready = some 0x01120203 := by decide +kernel
theorem test_issue_z0_set : statusAfter (issue 0x00000812) State.reset = some 0x08120202 := by decide +kernel
theorem test_issue_z1_set : statusAfter (issue 0x00008003) State.reset = some 0x80030202 := by decide +kernel
theorem test_issue_bit_19_set : statusAfter (issue 0x00080003) State.reset = some 0x000800030202 := by decide +kernel
theorem test_issue_bit_32_first : statusAfter (issue 0x100000007) State.reset = some 0x00070202 := by decide +kernel
theorem test_issue_not_ready : statusAfter (issue 0x00000012) State.reset = some 0x00120302 := by decide +kernel
theorem test_issue_discarded : receive (issue 0x00000010) failed = some failed := by decide +kernel

/-! ### One step of each command -/

theorem test_nop : nextOf (exec .nop (seeded 96)) = some (seeded 96) := by decide +kernel

/-- Section 3.1, ones times ones. -/
theorem test_mul_ones : (nextOf (exec (.mul 1 2) (withV ones ones 0))).map (·.prod) =
    some (ofLimbs 1152 ([1, 0, 0, 0, 0, 0, 0, 0, 0, 0xfffffffffffffffe] ++ List.replicate 8 limbF)) := by decide +kernel

/-- Section 3.2, the worst case `2^1152 − 1`: three folds. -/
theorem test_red_three_folds :
    (nextOf (exec (.red 3) (State.reset.setProd (BitVec.allOnes 1152)))).map (·.readV 3) =
      some (ofLimbs 576 [0, 0, 0, 0xfffe000000000000, limbF, limbF, limbF, 0x00000000ffffffff, 0]) := by decide +kernel

/-- Section 3.2, `m` is returned unchanged, not as 0. -/
theorem test_red_modulus :
    (nextOf (exec (.red 3) (State.reset.setProd (BitVec.ofNat 1152 Config.modulus)))).map (·.readV 3) = some vecM := by
  decide +kernel

/-- Section 3.3, `(m − 1)·(m − 1)` gives `m + 1`, with the destination also a source. -/
theorem test_mulmod_not_canonical :
    (nextOf (exec (.mulmod 1 1 2) (withV (vecM - 1) (vecM - 1) 0))).map (·.readV 1) = some (vecM + 1) := by decide +kernel

/-- Section 3.3: `PROD` is unchanged. -/
theorem test_mulmod_keeps_prod :
    (nextOf (exec (.mulmod 3 1 2) ((withV 2 3 0).setProd 9))).map (fun t => (t.readV 3, t.prod)) = some (6, 9) := by
  decide +kernel

/-- Section 3.4, the largest exponent. -/
theorem test_powmod_all_ones :
    (nextOf (exec (.powmod 1 1) ((withV 2 0 0).setArg limbF))).map (·.readV 1) =
      some (ofLimbs 576 [0xcad8baf6b111370a, 0x248304c337faf37b, 0xd909b3772d69731d, 0x098eebccb789cfa8,
        0x471050efc9e04a63, 0x0f55ee7c0f01e52e, 0x544bdf04e1fbbcf8, 0x0b829cb846251338, 0x6287afd1b2832b60]) := by
  decide +kernel

/-- Section 3.4, `0^0` is 1. -/
theorem test_powmod_zero : (nextOf (exec (.powmod 2 1) State.reset)).map (·.readV 2) = some 1 := by decide +kernel

/-- Section 3.5. -/
theorem test_lda : (nextOf (exec (.lda 0) State.reset)).map (·.readV 0) =
    some (ofLimbs 576 [0xed7faa90747aaad9, 0x4cec2c78af55c101, 0xe64dcb31c48228ec, 0x6d8a15a13bee7cb0,
      0x20b2ca60cb78c509, 0x256c3d3c662ea36c, 0xff74e54107684ed2, 0x492edfcc0cc8e753, 0xb48c187cf5b22097]) := by
  decide +kernel

/-- Section 3.5: `MOV v5, v2`, and `V2` stays. -/
theorem test_mov : (nextOf (exec (.mov 5 2) (withV 0 7 0))).map (fun t => (t.readV 5, t.readV 2)) = some (7, 7) := by
  decide +kernel

/-- Section 4.1, all ones with carry 1 gives `m`. -/
theorem test_tolcg_largest :
    (nextOf (exec (.tolcg 4) ((State.reset.setState ones).setCarry 1))).map (·.readV 4) = some vecM := by decide +kernel

/-- Section 4.1, `2^575` with carry 1. -/
theorem test_tolcg_2_575 :
    (nextOf (exec (.tolcg 4) ((State.reset.setState (BitVec.ofNat 576 (2 ^ 575))).setCarry 1))).map (·.readV 4) =
      some (ofLimbs 576 [1, 0, 0, 0xffff800000000000, limbF, limbF, limbF, limbF, 0x7fffffffffffffff]) := by decide +kernel

/-- Section 4.2, `A`, from a state with another offset. -/
theorem test_toranlux_a :
    (nextOf (exec (.toranlux 1) ((withV Config.kA 0 0).setOffset 96))).map
      (fun t => (t.state, t.carry, t.offset, t.ready)) =
      some (ofLimbs 576 [0x3c51cffcb1b71106, 0x34402bed9496c86a, 0x06e51460a44e35b5, 0x6d8aca2d546b7263,
        0x20b2ca60cb78c509, 0x256c3d3c662ea36c, 0xff74e54107684ed2, 0x492edfcc0cc8e753, 0xb48c187cf5b22097], 1, 0, true) := by
  decide +kernel

/-- Section 4.2, all ones is canonicalized to `2^240 − 2`. -/
theorem test_toranlux_ones :
    (nextOf (exec (.toranlux 1) (withV ones 0 0))).map (fun t => (t.state, t.carry)) =
      some (BitVec.ofNat 576 (2 ^ 240 - 2), 0) := by decide +kernel

/-- Section 5.1. -/
theorem test_seed : nextOf (exec .seed (State.reset.setArg 314159265)) = some ((seeded 0).setArg 314159265) := by
  decide +kernel

/-- Section 5.3. -/
theorem test_seed_one :
    (nextOf (exec .seed (State.reset.setArg 1))).map (fun t => (t.state, t.carry)) =
      some (ofLimbs 576 [0x0b883d58fe41dd38, 0x450e42255671817b, 0x0c7f86aa40c048e2, 0xd698cfa3da525c04,
        0x1164275f61142884, 0xd644d1bd1837c737, 0xad4191bcf0926c6b, 0x2624a1b9ef2c42c0, 0xf671bbcee85222ab], 1) := by
  decide +kernel

/-- Section 5.1, block 1; section 5.5, all ones with carry 1. -/
theorem test_advance :
    (nextOf (exec .advance (seeded 240))).map (fun t => (t.state, t.carry, t.offset)) = some (block1, 1, 0) := by
  decide +kernel
theorem test_advance_all_ones :
    (nextOf (exec .advance ((ready.setState ones).setCarry 1))).map (fun t => (t.state, t.carry)) = some (0, 0) := by
  decide +kernel

/-- Section 5.1, words 1 and 12: a word across two limbs, and the lazy advance at offset 576. -/
theorem test_next : (nextOf (exec .next (seeded 48))).map (fun t => (t.res, t.offset)) = some (160644077475575, 96) := by
  decide +kernel
theorem test_next_lazy :
    (nextOf (exec .next (seeded 576))).map (fun t => (t.res, t.state, t.carry, t.offset)) =
      some (185005245121693, block1, 1, 48) := by decide +kernel

/-- Section 6: `SKIP 11` takes the short path, `SKIP 25` the long path with `k = 1`, `r = 1`. -/
theorem test_skip_short : nextOf (exec .skip ((seeded 0).setArg 11)) = some ((seeded 528).setArg 11) := by decide +kernel
theorem test_skip_long : (nextOf (exec .skip ((seeded 0).setArg 25))).bind (fun t =>
    (nextOf (exec .next t)).map fun u => (t.offset, u.res)) = some (48, 225095095540618) := by decide +kernel

/-- Sections 7 and 8: the double of word 1 of the seed, and of the largest word. -/
theorem test_nextdbl :
    (nextOf (exec .nextdbl (seeded 48))).map (fun t => (t.res, t.offset)) = some (0x3FE2435BA58ADEE0, 96) := by decide +kernel
theorem test_nextdbl_largest :
    (nextOf (exec .nextdbl (ready.setState ones))).map (·.res) = some 0x3FEFFFFFFFFFFFE0 := by decide +kernel

/-- Section 5.5: `RESTORE` after reset. -/
theorem test_restore : nextOf (exec .restore State.reset) = some ready := by decide +kernel

/-! ### The bus (section 8) -/

theorem test_read_id : (receive (rd .id) failed).map (·.response) = some (some 0x00000007524C582B) := by decide +kernel
theorem test_read_cfg : (receive (rd .cfg) failed).map (·.response) = some (some 0x000008090C024030) := by decide +kernel
theorem test_read_v7_limb : (receive (.read 0x7C0#11 8) (State.reset.writeV 7 (BitVec.ofNat 576 (5 * 2 ^ 512)))).map
    (·.response) = some (some 5) := by decide +kernel
theorem test_read_unmapped : receive (.read 0x290#11 8) State.reset =
    some ((State.reset.setError true 4 0x290).setResponse (some 0)) := by decide +kernel
theorem test_read_width_4 : receive (.read 0x080#11 4) State.reset =
    some ((State.reset.setError true 5 0x80).setResponse (some 0)) := by decide +kernel
theorem test_write_misaligned : statusAfter (.write 0x044#11 8 0) State.reset = some 0x00440502 := by decide +kernel
theorem test_write_read_only : statusAfter (wr (.a 0) 1) ready = some 0x01000603 := by decide +kernel
theorem test_write_offset_50 : statusAfter (wr .offset 50) ready = some 0x00380703 := by decide +kernel
theorem test_write_offset_576 : receive (wr .offset 576) failed = some (failed.setOffset 576) := by decide +kernel
theorem test_write_offset_1024 : receive (wr .offset 1056) State.reset = some (State.reset.setError true 7 0x38) := by
  decide +kernel
theorem test_write_carry_2 : receive (wr .carry 2) State.reset = some (State.reset.setError true 7 0x40) := by decide +kernel
theorem test_write_ctrl_4 : receive (wr .ctrl 4) ready = some (ready.setError true 7 0x10) := by decide +kernel
theorem test_write_ctrl_3 : receive (wr .ctrl 3) (seeded 96) = some State.reset := by decide +kernel
theorem test_write_arg_with_error : receive (wr .arg 5) failed = some (failed.setArg 5) := by decide +kernel
theorem test_write_limb : (receive (wr (.v 3 1) 7) (withV 0 0 ones)).map (·.readV 3) =
    some (ofLimbs 576 [limbF, 7, limbF, limbF, limbF, limbF, limbF, limbF, limbF]) := by decide +kernel

/-! ### Witnesses: values that meet the hypotheses of the statements

Each conjunct of a theorem meets the hypotheses of one clause. -/

theorem witness_DecodedWordIsTheEncoding :
    decodeCommand 0x00077703#64 = .ok (.mulmod 7 7 7) ∧ 0x00077001#32 &&& Opcode.mul.maskWord = Opcode.mul.matchWord :=
  ⟨rfl, by decide⟩

theorem witness_MaskAndMatchSelectTheCommand :
    0x00077703#32 &&& Opcode.mulmod.maskWord = Opcode.mulmod.matchWord ∧ decode 0x00077001#32 = .ok (.mul 7 7) :=
  ⟨by decide, by rfl⟩

/-- At both ends of each range of illegal opcodes. -/
theorem witness_IllegalOpcodesRaiseOpc :
    State.reset.err = false ∧ ∀ w ∈ [0x07#32, 0x0A#32, 0x0F#32, 0x16#32, 0xFF#32, 0xFFFFFF07#32],
      ∀ op : Opcode, op.byte ≠ w.setWidth 8 := by
  refine ⟨rfl, fun w hw op => ?_⟩
  fin_cases hw <;> cases op <;> decide

/-- One word for each reserved place, and for each field a command does not use. -/
theorem witness_ReservedBitsRaiseRsv :
    State.reset.err = false ∧
    (Opcode.next.byte = (0x100000012#64).setWidth 8 ∧ (0x100000012#64).extractLsb' 32 32 ≠ 0) ∧
    (Opcode.next.byte = (0x812#64).setWidth 8 ∧ (0x812#64).getLsbD 11 = true) ∧
    (Opcode.mulmod.byte = (0x8003#64).setWidth 8 ∧ (0x8003#64).getLsbD 15 = true) ∧
    (Opcode.mulmod.byte = (0x80003#64).setWidth 8 ∧ (0x80003#64).extractLsb' 19 13 ≠ 0) ∧
    (Opcode.toranlux.byte = (0x109#64).setWidth 8 ∧ Opcode.toranlux.use.rd = false ∧ (0x109#64).extractLsb' 8 3 ≠ 0) ∧
    (Opcode.red.byte = (0x1002#64).setWidth 8 ∧ Opcode.red.use.ra = false ∧ (0x1002#64).extractLsb' 12 3 ≠ 0) ∧
    (Opcode.powmod.byte = (0x70004#64).setWidth 8 ∧ Opcode.powmod.use.rb = false ∧
      (0x70004#64).extractLsb' 16 3 ≠ 0) ∧
    decodeCommand 0x12#64 = .ok .next := by
  refine ⟨?_, ?_, ?_, ?_, ?_, ?_, ?_, ?_, rfl⟩ <;> decide

/-- One write for each check of the order: discarded; bits 63:32; opcode; reserved bits; not Ready; run. -/
theorem witness_CommandChecksRunInOrder :
    failed.err = true ∧ State.reset.err = false ∧
    (0x100000007#64 >>> 32 ≠ 0) ∧
    (0x00000007#64 >>> 32 = 0 ∧ ∀ op : Opcode, op.byte ≠ ((0x00000007#64).setWidth 32).setWidth 8) ∧
    (Opcode.next.byte = ((0x80000012#64).setWidth 32).setWidth 8 ∧ (0x80000012#64).setWidth 32 >>> 19 ≠ 0#32) ∧
    (Opcode.next.byte = ((0x12#64).setWidth 32).setWidth 8 ∧ Opcode.next.needsReady = true ∧
      State.reset.ready = false) ∧
    (Opcode.mulmod.byte = ((0x00077703#64).setWidth 32).setWidth 8 ∧ Opcode.mulmod.needsReady = false) ∧
    ready.ready = true := by
  refine ⟨rfl, rfl, by decide, ⟨by decide, fun op => ?_⟩, by decide, by decide, by decide, rfl⟩
  cases op <;> decide

theorem witness_StepRunsTheDecodedCommand :
    State.reset.err = false ∧ decodeCommand 0x00021001#64 = .ok (.mul 1 2) ∧
    decodeTableWord 32 0x00000012 = some .next := ⟨rfl, rfl, by decide⟩

theorem witness_EveryStepAndCommandCompletes : State.reset.pending = [] := rfl

theorem witness_CommandsWriteOnlyTheirDestinations :
    (∃ t, exec .nop State.reset = .next t) ∧ (∃ t, exec (.toranlux 7) State.reset = .next t) ∧
    (∃ t, exec (.red 0) State.reset = .next t) ∧ (∃ t, exec .next ready = .next t) ∧
    (Instr.red 0 ≠ .red 7 ∧ Instr.toranlux 7 ≠ .red 0) ∧ ready.ready = true :=
  ⟨⟨_, rfl⟩, ⟨_, rfl⟩, ⟨_, rfl⟩, ⟨_, rfl⟩, by decide, rfl⟩

/-- The largest value below `2^576`; the one whose second pass still overflows; the smallest result at or above `m`. -/
theorem witness_ReduceProperties :
    (BitVec.ofNat 1152 (2 ^ 576 - 1)).toNat < 2 ^ 576 ∧
    2 ^ 576 ≤ foldPass (foldPass (BitVec.allOnes 1152).toNat) ∧
    Config.modulus ≤ (reduce (BitVec.ofNat 1152 Config.modulus)).toNat := by decide +kernel

theorem witness_PowerModProperties :
    (2#576).toNat ^ (575#64).toNat < 2 ^ 576 ∧ 64 ≤ 64 ∧ limbF.toNat < 2 ^ 64 ∧ (15#64).toNat < 2 ^ 4 := by decide +kernel

/-- `ARG = 0`, `ARG = 1`, and the largest power of two that fits. -/
theorem witness_PowmodWritesThePower :
    State.reset.arg = 0 ∧ (State.reset.setArg 1).arg = 1 ∧
    (withV 2 0 0).vreg[1].toNat ^ ((withV 2 0 0).setArg 575).arg.toNat < 2 ^ 576 := by decide +kernel

theorem witness_ToLcgFacts : (2 ^ 336 ∣ (2 ^ 336 - 1) + 1) ∧ 2 ^ 336 - 1 ≤ 2 ^ 336 := by decide +kernel

theorem witness_CodecLaws :
    (vecM - 1).toNat < Config.modulus ∧ toRanlux (vecM - 1) = toRanlux (vecM - 1) ∧
    (BitVec.ofNat 576 (2 ^ 336 - 1)).toNat < 2 ^ 336 := ⟨by decide +kernel, rfl, by decide +kernel⟩

theorem witness_LegacyStepIsMultiplication : 0 < Config.modulus ∧ Config.modulus - 1 < Config.modulus := by
  decide +kernel

theorem witness_ExtractStraddlesLimbs : 0 < 3 ∧ 2 < 3 := by decide

theorem witness_SeedIsAPowerOfA :
    State.reset.arg = (State.reset.setProd 1).arg ∧ (∃ t, exec .seed State.reset = .next t) ∧
    (∃ t, exec .seed (State.reset.setProd 1) = .next t) ∧ (∃ u, repeatNext 1 ready = .next u) ∧
    (∃ u, repeatNext 13 (ready.setProd 1) = .next u) :=
  ⟨rfl, ⟨_, rfl⟩, ⟨_, rfl⟩, ⟨_, rfl⟩, ⟨_, rfl⟩⟩

theorem witness_AdvanceMultipliesByA :
    (seeded 576).ready = true ∧ State.reset.ready = false ∧ State.reset.err = false := ⟨rfl, rfl, rfl⟩

/-- The last offset that still holds a word, and the two that do not. -/
theorem witness_NextTakesTheWindow :
    (seeded 528).ready = true ∧ (seeded 528).offset.toNat ≤ 528 ∧ 528 < (seeded 529).offset.toNat ∧
    528 < (seeded 576).offset.toNat ∧ State.reset.ready = false ∧ State.reset.err = false := by decide +kernel

theorem witness_NextdblTakesTheWindowAsADouble :
    (seeded 528).ready = true ∧ (seeded 528).offset.toNat ≤ 528 ∧ 528 < (seeded 576).offset.toNat ∧
    State.reset.ready = false ∧ State.reset.err = false := by decide +kernel

theorem witness_DoubleIsExact : (1 : BitVec 48) ≠ 0 ∧ BitVec.allOnes 48 ≠ 0 := by decide

/-- The last count of the short path and the first of the long one, at offset 240, where 7 words are left. -/
theorem witness_SkipPaths :
    (seeded 240).ready = true ∧ ((seeded 240).setArg 6).arg.toNat < (576 - (seeded 240).offset.toNat) / 48 ∧
    (576 - (seeded 240).offset.toNat) / 48 ≤ ((seeded 240).setArg 7).arg.toNat ∧
    State.reset.ready = false ∧ State.reset.err = false := by decide +kernel

/-- Both clauses: a count whose remainder is not 0, and the two smallest that end a block. -/
theorem witness_SkipLaw :
    ((seeded 0).setArg 13).ready = true ∧ OffsetLegal (seeded 0) ∧ OffsetLegal (seeded 576) ∧
    (((seeded 0).setArg 13).arg.toNat - (576 - (seeded 0).offset.toNat) / 48) % 12 ≠ 0 ∧
    ((576 - (seeded 0).offset.toNat) / 48 ≤ ((seeded 0).setArg 12).arg.toNat ∧
      (((seeded 0).setArg 12).arg.toNat - (576 - (seeded 0).offset.toNat) / 48) % 12 = 0) ∧
    ((576 - (seeded 576).offset.toNat) / 48 ≤ ((seeded 576).setArg 0).arg.toNat ∧
      (((seeded 576).setArg 0).arg.toNat - (576 - (seeded 576).offset.toNat) / 48) % 12 = 0) := by decide +kernel

/-- The last word of the current block (11) and the first of the next (12). -/
theorem witness_NextsReadTheStream :
    (seeded 0).ready = true ∧ OffsetLegal (seeded 0) ∧ 11 < (576 - (seeded 0).offset.toNat) / 48 ∧
    (576 - (seeded 0).offset.toNat) / 48 ≤ 12 ∧ OffsetLegal (seeded 576) := by decide +kernel

theorem witness_ReadyCheck :
    Instr.skip ∈ [Instr.advance, .next, .skip, .nextdbl] ∧ State.reset.ready = false ∧ failed.ready = false ∧
    Instr.seed ∉ [Instr.advance, .next, .skip, .nextdbl] := by decide

theorem witness_GeneratorDependsOnTheTripleOnly :
    (seeded 0).ready = true ∧ ((seeded 0).setProd 1).ready = true ∧ triple (seeded 0) = triple ((seeded 0).setProd 1) ∧
    (∃ t, exec .next (seeded 0) = .next t) ∧ (∃ t, exec .nextdbl (seeded 0) = .next t) ∧
    (∃ t, exec .advance (seeded 0) = .next t) ∧ (∃ t, exec .skip (seeded 0) = .next t) ∧
    (seeded 0).arg = ((seeded 0).setProd 1).arg :=
  ⟨rfl, rfl, by decide +kernel, ⟨_, rfl⟩, ⟨_, rfl⟩, ⟨_, rfl⟩, ⟨_, rfl⟩, by decide +kernel⟩

theorem witness_AllZeroStateIsAFixedPoint :
    (ready.ready = true ∧ ready.state = 0 ∧ ready.carry = 0) ∧
    ((withV vecM 0 0).vreg[1].toNat = Config.modulus ∧ (withV vecM 0 0).vreg[2] = 0) ∧
    ((ready.setState ones).setCarry 1).state = BitVec.allOnes 576 := by decide +kernel

theorem witness_SeedZeroIsWeak : State.reset.arg = 0 ∧ (0 < 12 ∧ 11 < 12) := by decide

/-- Another width, another alignment, and the first and last unmapped offsets. -/
theorem witness_ReadValues :
    ((4 : Nat) ≠ 8 ∧ (0x7FF#11).toNat % 8 ≠ 0) ∧
    ∀ off ∈ [0x048#11, 0x290#11, 0x7C8#11, 0x7F8#11], off.toNat % 8 = 0 ∧
      ∀ r : WinReg, r.windowOffset ≠ off.toNat := by
  refine ⟨by decide, fun off h => ⟨?_, fun r => ?_⟩⟩
  · fin_cases h <;> decide
  · fin_cases h <;> cases r <;> simp [WinReg.windowOffset] <;> omega

theorem witness_ReadsChangeNothing :
    (∃ t, step (State.reset.setPending [.read 0x7C0#11 8]) = .next t) ∧
    (∃ r : WinReg, r.windowOffset = (0x7C0#11).toNat) ∧
    (∃ t u, step (State.reset.setPending (rd .arg :: rd .arg :: [])) = .next t ∧ step t = .next u) :=
  ⟨⟨_, rfl⟩, ⟨.v 7 8, by decide⟩, ⟨_, _, rfl, rfl⟩⟩

/-- Each kind of write the statement is about, a neighbour register, and the bytes on both sides of `ARG`. -/
theorem witness_WindowReadAfterWrite :
    (WinReg.arg.access = .readWrite ∧ (WinReg.v 7 8).access = .readWrite ∧
      ((576#64).toNat % 48 = 0 ∧ (576#64).toNat ≤ 576) ∧ (1#64).toNat ≤ 1) ∧
    (∃ t, step (failed.setPending [wr .arg 5]) = .next t) ∧ (∃ t, step (failed.setPending [wr .offset 576]) = .next t) ∧
    (∃ t, step (failed.setPending [wr .carry 1]) = .next t) ∧ WinReg.res ≠ .arg ∧
    (0x027#11).toNat < WinReg.arg.windowOffset ∧ WinReg.arg.windowOffset + 8 ≤ (0x030#11).toNat :=
  ⟨by decide, ⟨_, rfl⟩, ⟨_, rfl⟩, ⟨_, rfl⟩, by decide, by decide, by decide⟩

/-- The smallest refused value of `CTRL`, and each value it takes. -/
theorem witness_CtrlWrites : 4 ≤ (4#64).toNat ∧ ((1#64) = 1 ∨ (1#64) = 3) ∧ ((3#64) = 1 ∨ (3#64) = 3) := by decide

theorem witness_ReadOnlyWritesRaise : WinReg.id = .id ∧ ∃ i, WinReg.a 8 = .a i := ⟨rfl, 8, rfl⟩

/-- The clauses meet at an 8-byte access: a misaligned offset belongs to the first, an aligned unmapped one to the second. -/
theorem witness_IllegalAccessesRaise :
    ((4 : Nat) ≠ 8) ∧ ((0x044#11).toNat % 8 ≠ 0) ∧ ((0x048#11).toNat % 8 = 0) ∧
    ∀ r : WinReg, r.windowOffset ≠ (0x048#11).toNat := by
  refine ⟨by decide, by decide, by decide, fun r => ?_⟩
  cases r <;> simp [WinReg.windowOffset] <;> omega

theorem witness_LoadRestoresTheTriple :
    State.reset.err = false ∧ (576#10).toNat % 48 = 0 ∧ (576#10).toNat ≤ 576 := by decide

theorem witness_FirstErrorWins :
    State.reset.err = false ∧ failed.err = true ∧ ¬ isReset (wr .ctrl 0) ∧ wr .ctrl 0 ≠ wr .ctrl 2 ∧
    (∃ t, step (failed.setPending [wr .ctrl 0]) = .next t) := by
  refine ⟨rfl, rfl, ?_, by decide, ⟨_, rfl⟩⟩
  rintro (h | ⟨v, h⟩ | h | h | h) <;> cases h

/-- A command and a read that raise an error. -/
theorem witness_ErrorsArePrecise :
    State.reset.err = false ∧
    (∃ t, step (State.reset.setPending [cmd .next]) = .next t ∧ t.err = true) ∧
    (∃ t, step (State.reset.setPending [.read 0x048#11 8]) = .next t ∧ t.err = true) :=
  ⟨rfl, ⟨_, rfl, by decide +kernel⟩, ⟨_, rfl, by decide +kernel⟩⟩

theorem witness_ResetValues :
    isReset .reset ∧ isReset (.abandonedCmd 0x10) ∧ isReset .powerCycle ∧ isReset (wr .ctrl 1) ∧ isReset (wr .ctrl 3) :=
  ⟨.inl rfl, .inr (.inl ⟨_, rfl⟩), .inr (.inr (.inl rfl)), .inr (.inr (.inr (.inl rfl))),
    .inr (.inr (.inr (.inr rfl)))⟩

theorem witness_ReadyStateMachine :
    (∃ t, step (ready.setPending [.reset]) = .next t ∧ ready.ready = true ∧ t.ready = false) ∧
    (∃ t, step (State.reset.setPending [cmd .restore]) = .next t ∧ State.reset.ready = false ∧ t.ready = true) :=
  ⟨⟨_, rfl, rfl, rfl⟩, ⟨_, rfl, rfl, by decide +kernel⟩⟩

theorem witness_ArgChangesOnlyByTheHost :
    (∃ t, step (State.reset.setPending [wr .arg 5]) = .next t ∧ t.arg ≠ State.reset.arg) ∧
    (∃ t, step ((State.reset.setArg 5).setPending [.reset]) = .next t ∧ t.arg ≠ (State.reset.setArg 5).arg) :=
  ⟨⟨_, rfl, by decide +kernel⟩, ⟨_, rfl, by decide +kernel⟩⟩

theorem witness_StepKeepsInvariant :
    Inv ((seeded 576).setPending [cmd .next]) ∧ ∃ t, step ((seeded 576).setPending [cmd .next]) = .next t :=
  ⟨by decide +kernel, ⟨_, rfl⟩⟩

/-- The addresses just below and just above a window placed at 0x1000, and its last byte. -/
theorem witness_AccessOutsideTheWindowChangesNothing :
    ¬ (0x1000 ≤ 0x0FFF ∧ 0x0FFF < 0x1000 + 0x800) ∧ ¬ (0x1000 ≤ 0x1800 ∧ 0x1800 < 0x1000 + 0x800) ∧
    (∃ n, BusRequest.read 0x1800 8 = .read 0x1800 n) ∧ (PlacedBlock.mk 0x1000 State.reset).state.pending = [] ∧
    0x7FF < 0x800 := ⟨by decide, by decide, ⟨8, rfl⟩, rfl, by decide⟩

end Sys2Proof.Machine.Tests
end

section
/-! PROOFS of the statements on the generator's state, the operands and the reset values (10_state.md): what a step can do at all, what it keeps of `ARG` and `READY`, and the legacy generator behind the codec. -/

/-! ### A word that decodes is the encoding of its command (30_encoding.md R117) -/

namespace Sys2Proof

/-- A command fills the register fields its opcode uses, and every other place is 0 (30_encoding.md R112, R117). -/
theorem Opcode.fields_build (op : Opcode) (rd ra rb : VReg) :
    (op.build rd ra rb).fields =
      ⟨op.byte, if op.use.rd then fieldOfVreg rd else 0, 0, if op.use.ra then fieldOfVreg ra else 0, 0,
        if op.use.rb then fieldOfVreg rb else 0, 0⟩ := by
  cases op <;> rfl

theorem CommandFields.wellFormed_iff (u : FieldUse) (f : CommandFields) :
    f.wellFormed u = true ↔ (f.z0 = 0 ∧ f.z1 = 0 ∧ f.z2 = 0) ∧
      (u.rd = true ∨ f.rd = 0) ∧ (u.ra = true ∨ f.ra = 0) ∧ (u.rb = true ∨ f.rb = 0) := by
  simp [CommandFields.wellFormed, CommandFields.reservedZero, CommandFields.unusedZero, and_assoc]

theorem ite_eq_self_of_used_or_zero {u : Bool} {x : BitVec 3} (h : u = true ∨ x = 0) :
    (if u then x else 0) = x := by
  obtain rfl | rfl := h
  · rfl
  · exact ite_self _

/-- Well-formed fields are the fields of the command they select (30_encoding.md R117). -/
theorem CommandFields.fields_build {op : Opcode} {f : CommandFields} (hop : op.byte = f.opc)
    (hwf : f.wellFormed op.use = true) :
    (op.build (vregOfField f.rd) (vregOfField f.ra) (vregOfField f.rb)).fields = f := by
  obtain ⟨opc, rd, z0, ra, z1, rb, z2⟩ := f
  obtain ⟨⟨rfl, rfl, rfl⟩, hrd, hra, hrb⟩ := (CommandFields.wellFormed_iff _ _).mp hwf
  rw [Opcode.fields_build, fieldOfVreg_vregOfField, fieldOfVreg_vregOfField, fieldOfVreg_vregOfField,
    ite_eq_self_of_used_or_zero hrd, ite_eq_self_of_used_or_zero hra, ite_eq_self_of_used_or_zero hrb, hop]

theorem encode_of_decode {w : CmdWord} {i : Instr} (h : decode w = .ok i) : encode i = w := by
  obtain ⟨-, he⟩ | ⟨op, hop, ⟨-, he⟩ | ⟨hwf, he⟩⟩ := decode_cases w
  · cases he.symm.trans h
  · cases he.symm.trans h
  · obtain rfl := Except.ok.inj (he.symm.trans h)
    rw [encode, CommandFields.fields_build hop hwf, CommandFields.pack_split]

/-- A `CMD` write that decodes carries the encoding, with bits 63:32 zero (30_encoding.md R110). -/
theorem encode_of_decodeCommand {v : Limb} {i : Instr} (h : decodeCommand v = .ok i) :
    (encode i).setWidth 64 = v := by
  unfold decodeCommand at h
  split at h
  case isTrue hu =>
    rw [encode_of_decode h]
    have hu' := congrArg BitVec.toNat hu
    apply BitVec.eq_of_toNat_eq
    simp [BitVec.extractLsb'_toNat, Nat.shiftRight_eq_div_pow] at hu' ⊢
    omega
  case isFalse => cases h

end Sys2Proof

namespace Sys2Proof.Machine

/-! ### Changes that only report: the error record and the returned data -/

/-- `t` is `s` but for the error record and the response. -/
def OnlyReports (s t : State) : Prop :=
  ∃ e c info r, t = (s.setError e c info).setResponse r

theorem OnlyReports.refl (s : State) : OnlyReports s s := ⟨s.err, s.errCode, s.errInfo, s.response, rfl⟩

theorem OnlyReports.respond {s t : State} (h : OnlyReports s t) (r : Option Limb) :
    OnlyReports s (t.setResponse r) := by
  obtain ⟨e, c, info, _, rfl⟩ := h
  exact ⟨e, c, info, r, rfl⟩

theorem OnlyReports.arg_ready {s t : State} (h : OnlyReports s t) : t.arg = s.arg ∧ t.ready = s.ready := by
  obtain ⟨_, _, _, _, rfl⟩ := h
  exact ⟨rfl, rfl⟩

theorem onlyReports_setError (s : State) (e : Bool) (c : BitVec 8) (info : BitVec 32) :
    OnlyReports s (s.setError e c info) := ⟨e, c, info, s.response, rfl⟩

theorem onlyReports_raiseError (c : ErrorCode) (info : Nat) (s : State) : OnlyReports s (raiseError c info s) := by
  obtain ⟨-, h⟩ | ⟨-, h⟩ := raiseError_cases c info s <;> rw [h]
  · exact .refl s
  · exact onlyReports_setError ..

theorem onlyReports_clearError (s : State) : OnlyReports s (clearError s) := onlyReports_setError ..

theorem onlyReports_busRead (off : WinOff) (n : Nat) (s : State) : OnlyReports s (busRead off n s) := by
  obtain ⟨-, h⟩ | ⟨-, -, h⟩ | ⟨-, r, -, h⟩ := busRead_cases off n s <;> rw [h]
  · exact (onlyReports_raiseError ..).respond _
  · exact (onlyReports_raiseError ..).respond _
  · exact (OnlyReports.refl s).respond _

/-! ### Changes of the generator alone: its triple and `RES` -/

/-- `t` is `s` but for `STATE`, `CARRY`, `OFFSET` and `RES`. -/
def OnlyGenerates (s t : State) : Prop :=
  ∃ p o r, t = (s.loadGenerator p o).setRes r

theorem OnlyGenerates.refl (s : State) : OnlyGenerates s s := ⟨(s.state, s.carry), s.offset, s.res, rfl⟩

theorem OnlyGenerates.arg_ready {s t : State} (h : OnlyGenerates s t) : t.arg = s.arg ∧ t.ready = s.ready := by
  obtain ⟨_, _, _, rfl⟩ := h
  exact ⟨rfl, rfl⟩

theorem onlyGenerates_setOffset (s : State) (o : BitVec 10) : OnlyGenerates s (s.setOffset o) :=
  ⟨(s.state, s.carry), o, s.res, rfl⟩

theorem onlyGenerates_multiplyGenerator (p : Vec576) (o : BitVec 10) (s : State) :
    OnlyGenerates s (multiplyGenerator p o s) := ⟨_, o, s.res, rfl⟩

theorem onlyGenerates_advance (s : State) : OnlyGenerates s (advance s) := onlyGenerates_multiplyGenerator ..

theorem onlyGenerates_ensureWord (s : State) : OnlyGenerates s (ensureWord s) := by
  unfold ensureWord
  split
  · exact onlyGenerates_advance s
  · exact .refl s

theorem onlyGenerates_takeWord (f : BitVec Config.wordBits → Limb) (s : State) : OnlyGenerates s (takeWord f s) := by
  obtain ⟨p, o, r, h⟩ := onlyGenerates_ensureWord s
  rw [takeWord, h]
  exact ⟨p, _, _, rfl⟩

theorem onlyGenerates_skipWords (n : Nat) (s : State) : OnlyGenerates s (skipWords n s) := by
  unfold skipWords
  split
  · exact onlyGenerates_setOffset ..
  · exact onlyGenerates_multiplyGenerator ..

/-! ### All that a command can do -/

/-- The kinds of effect a command has (30_encoding.md R114): every command has one (`exec_effect`). -/
inductive CommandEffect (i : Instr) (s t : State) : Prop
  /-- A result in a vector register or in `PROD`. -/
  | result (x : Vector Vec576 8) (y : Vec1152) (ht : t = { s with vreg := x, prod := y })
  /-- A new generator state, and Ready. -/
  | makesReady (hi : i.opcode ∈ [.seed, .toranlux, .restore]) (p : Vec576 × BitVec 1) (o : BitVec 10)
      (ht : t = (s.loadGenerator p o).setReady true)
  /-- The generator moves on. -/
  | generates (ht : OnlyGenerates s t)
  /-- The Ready check fails. -/
  | report (ht : OnlyReports s t)

theorem requireReady_effect {i j : Instr} {run : State → State} {s t : State} (hrun : OnlyGenerates s (run s))
    (h : requireReady j run s = .next t) : CommandEffect i s t := by
  obtain ⟨-, hr⟩ | ⟨-, hr⟩ := requireReady_cases j run s <;> rw [hr] at h <;> cases h
  · exact .generates hrun
  · exact .report (onlyReports_raiseError ..)

theorem exec_effect {i : Instr} {s t : State} (h : exec i s = .next t) : CommandEffect i s t := by
  cases i with
  | nop | mul | red | mulmod | powmod | lda | mov | tolcg => cases h; exact .result _ _ rfl
  | toranlux => cases h; exact .makesReady (by simp [Instr.opcode]) _ _ rfl
  | seed => cases h; exact .makesReady (by simp [Instr.opcode]) _ _ rfl
  | restore => cases h; exact .makesReady (by simp [Instr.opcode]) (s.state, s.carry) s.offset rfl
  | advance => exact requireReady_effect (onlyGenerates_advance s) h
  | next => exact requireReady_effect (onlyGenerates_takeWord _ s) h
  | skip => exact requireReady_effect (onlyGenerates_skipWords _ s) h
  | nextdbl => exact requireReady_effect (onlyGenerates_takeWord _ s) h

/-- No command writes `ARG` (10_state.md R36). -/
theorem exec_arg {i : Instr} {s t : State} (h : exec i s = .next t) : t.arg = s.arg := by
  cases exec_effect h with
  | result x y ht => rw [ht]
  | makesReady hi p o ht => rw [ht]; rfl
  | generates ht => exact ht.arg_ready.1
  | report ht => exact ht.arg_ready.1

/-- A command keeps `READY` or is one of the three that set it (10_state.md R44). -/
theorem exec_ready {i : Instr} {s t : State} (h : exec i s = .next t) :
    t.ready = s.ready ∨ (t.ready = true ∧ i.opcode ∈ [.seed, .toranlux, .restore]) := by
  cases exec_effect h with
  | result x y ht => rw [ht]; exact .inl rfl
  | makesReady hi p o ht => rw [ht]; exact .inr ⟨rfl, hi⟩
  | generates ht => exact .inl ht.arg_ready.2
  | report ht => exact .inl ht.arg_ready.2

/-! ### All that a step can do -/

/-- The kinds of effect an event has on the block (20_memory.md R78, R85, 70_reset_and_hazards.md R350): every step has one (`step_effect`). -/
inductive StepEffect (e : BusEvent) (s t : State) : Prop
  /-- A reset. -/
  | reset (he : isReset e) (ht : t = resetBlock s)
  /-- A command that passes the checks of the issue (30_encoding.md R120). -/
  | command (i : Instr) (he : e = cmd i) (herr : s.err = false) (ht : exec i s = .next t)
  /-- A legal write to a register that is no action register. -/
  | register (r : WinReg) (v : Limb) (hcmd : r ≠ .cmd) (hctrl : r ≠ .ctrl) (he : e = wr r v) (ht : t = writeReg r v s)
  /-- A read, an error, an error clear, a discarded command, or nothing. -/
  | report (ht : OnlyReports s t)

theorem issueCommand_runs_or_reports {v : Limb} {s t : State} (h : issueCommand v s = .next t) :
    (s.err = false ∧ ∃ i, v = (encode i).setWidth 64 ∧ exec i s = .next t) ∨ OnlyReports s t := by
  obtain ⟨-, hi⟩ | ⟨-, _, -, hi⟩ | ⟨herr, i, hd, hi⟩ := issueCommand_cases v s <;> rw [hi] at h
  · cases h; exact .inr (.refl s)
  · cases h; exact .inr (onlyReports_setError ..)
  · exact .inl ⟨herr, i, (encode_of_decodeCommand hd).symm, h⟩

theorem writeCtrl_resets_or_reports (v : Limb) (s : State) :
    ((v = 1 ∨ v = 3) ∧ writeCtrl v s = resetBlock s) ∨ OnlyReports s (writeCtrl v s) := by
  obtain ⟨-, h⟩ | hreset | ⟨-, h⟩ | ⟨-, h⟩ := writeCtrl_cases v s
  · rw [h]; exact .inr (onlyReports_raiseError ..)
  · exact .inl hreset
  · rw [h]; exact .inr (onlyReports_clearError s)
  · rw [h]; exact .inr (.refl s)

theorem busWrite_effect {off : WinOff} {n : Nat} {v : Limb} {s t : State} (h : busWrite off n v s = .next t) :
    StepEffect (.write off n v) s t := by
  obtain ⟨-, hw⟩ | ⟨-, -, hw⟩ | ⟨⟨rfl, rfl⟩, hw⟩ | ⟨rfl, r, hcmd, rfl, hw⟩ := busWrite_cases off n v s <;> rw [hw] at h
  · cases h; exact .report (onlyReports_raiseError ..)
  · cases h; exact .report (onlyReports_raiseError ..)
  · obtain ⟨herr, i, rfl, hi⟩ | hr := issueCommand_runs_or_reports h
    · exact .command i rfl herr hi
    · exact .report hr
  · cases h
    by_cases hctrl : r = .ctrl
    · subst hctrl
      obtain ⟨hv, hr⟩ | hr := writeCtrl_resets_or_reports v s
      · exact .reset (.inr (.inr (.inr (hv.imp (congrArg (wr .ctrl)) (congrArg (wr .ctrl)))))) hr
      · exact .report hr
    · exact .register r v hcmd hctrl rfl rfl

theorem step_effect {s t : State} {e : BusEvent} {rest : List BusEvent}
    (h : step (s.setPending (e :: rest)) = .next t) : StepEffect e (takeEvent rest s) t := by
  rw [step_setPending_cons] at h
  cases e with
  | read off n => cases h; exact .report (onlyReports_busRead ..)
  | write off n v => exact busWrite_effect h
  | elsewhere => cases h; exact .report (.refl _)
  | reset => cases h; exact .reset (.inl rfl) rfl
  | abandonedCmd v => cases h; exact .reset (.inr (.inl ⟨v, rfl⟩)) rfl
  | powerCycle => cases h; exact .reset (.inr (.inr (.inl rfl))) rfl

/-! ### `ARG` and `READY` (10_state.md R36, R44) -/

theorem writeOffset_arg_ready (v : Limb) (s : State) :
    (writeOffset v s).arg = s.arg ∧ (writeOffset v s).ready = s.ready := by
  obtain ⟨-, h⟩ | ⟨-, h⟩ := writeOffset_cases v s <;> rw [h]
  · exact ⟨rfl, rfl⟩
  · exact (onlyReports_raiseError ..).arg_ready

theorem writeCarry_arg_ready (v : Limb) (s : State) :
    (writeCarry v s).arg = s.arg ∧ (writeCarry v s).ready = s.ready := by
  obtain ⟨-, h⟩ | ⟨-, h⟩ := writeCarry_cases v s <;> rw [h]
  · exact ⟨rfl, rfl⟩
  · exact (onlyReports_raiseError ..).arg_ready

/-- Register writes other than to `CTRL` reach `ARG` only by its own offset, and never `READY` (20_memory.md R80 to R83). -/
theorem writeReg_arg_ready {r : WinReg} (hctrl : r ≠ .ctrl) (v : Limb) (s : State) :
    (writeReg r v s).arg = (if r = .arg then v else s.arg) ∧ (writeReg r v s).ready = s.ready := by
  cases r with
  | ctrl => exact absurd rfl hctrl
  | id | cfg | status | res | a => exact (onlyReports_raiseError ..).arg_ready
  | offset => exact writeOffset_arg_ready v s
  | carry => exact writeCarry_arg_ready v s
  | cmd | arg | state | prod | v => exact ⟨rfl, rfl⟩

theorem step_ready {s t : State} {e : BusEvent} {rest : List BusEvent}
    (h : step (s.setPending (e :: rest)) = .next t) :
    t.ready = s.ready ∨ (t.ready = false ∧ isReset e) ∨
      (t.ready = true ∧ s.err = false ∧ ∃ i, e = cmd i ∧ i.opcode ∈ [.seed, .toranlux, .restore]) := by
  cases step_effect h with
  | reset he ht => rw [ht]; exact .inr (.inl ⟨resetBlock_ready _, he⟩)
  | command i he herr ht =>
    obtain hkept | ⟨hset, hi⟩ := exec_ready ht
    · exact .inl hkept
    · exact .inr (.inr ⟨hset, herr, i, he, hi⟩)
  | register r v hcmd hctrl he ht => rw [ht]; exact .inl (writeReg_arg_ready hctrl v _).2
  | report ht => exact .inl ht.arg_ready.2

theorem step_arg {s t : State} {e : BusEvent} {rest : List BusEvent}
    (h : step (s.setPending (e :: rest)) = .next t) : t.arg = s.arg ∨ isReset e ∨ e = wr .arg t.arg := by
  cases step_effect h with
  | reset he ht => exact .inr (.inl he)
  | command i he herr ht => exact .inl ((exec_arg ht).trans (takeEvent_arg s rest))
  | register r v hcmd hctrl he ht =>
    have harg := (writeReg_arg_ready hctrl v (takeEvent rest s)).1
    rw [← ht] at harg
    split at harg
    case isTrue hr => subst hr; exact .inr (.inr (harg ▸ he))
    case isFalse => exact .inl harg
  | report ht => exact .inl ht.arg_ready.1

/-- Settles O55, from the three things a step can do to `READY`. -/
theorem readyStateMachine : Obligations.ReadyStateMachine := by
  intro s t e rest h
  obtain hkept | ⟨hclear, he⟩ | ⟨hset, hissue⟩ := step_ready h
  · exact ⟨fun hs ht => by simp [hs, ht] at hkept, fun hs ht => by simp [hs, ht] at hkept⟩
  · exact ⟨fun _ _ => he, fun _ ht => by simp [ht] at hclear⟩
  · exact ⟨fun _ ht => by simp [ht] at hset, fun _ _ => hissue⟩

/-- Settles O56: of the things a step can do to `ARG`, the first is excluded. -/
theorem argChangesOnlyByTheHost : Obligations.ArgChangesOnlyByTheHost :=
  fun _ _ _ _ h hne => (step_arg h).resolve_left hne

/-- Settles O58, clause by clause. -/
theorem resetHasInvariant : Obligations.ResetHasInvariant :=
  ⟨⟨rfl, Nat.zero_le _⟩, fun _ => ⟨rfl, rfl⟩, fun h => absurd h Bool.false_ne_true, fun _ => by decide⟩

end Sys2Proof.Machine
end

section
/-! PROOFS on the codec's integer formulas and the legacy generator (41_codec.md R203, R205). The buffer `floor(X·2^576 / m)` is the first 24 digits of `X / m` in base `2^24`, and a legacy step shifts them by one digit. -/

set_option exponentiation.threshold 1200

namespace Sys2Proof.Machine

/-! ### `ToRANLUX` on a residue (41_codec.md R203) -/

theorem modulus_pos : 0 < Config.modulus := by decide +kernel

theorem ranluxBuffer_eq (x : Nat) : ranluxBuffer x = 2 ^ 576 * x / Config.modulus := by
  rw [ranluxBuffer]

theorem ranluxCarry_eq (x : Nat) : ranluxCarry x = x - (ranluxBuffer x - ranluxBuffer x / 2 ^ 336) := by
  rw [ranluxCarry, Nat.shiftRight_eq_div_pow]

theorem ranluxBuffer_lt {x : Nat} (h : x < Config.modulus) : ranluxBuffer x < 2 ^ 576 := by
  rw [ranluxBuffer_eq]
  unfold Config.modulus at *
  omega

/-- Buffer and carry are worth the residue, and the carry is one bit: R203's argument from `2^576 = m + 2^240 − 1`. -/
theorem ranluxCarry_spec {x : Nat} (h : x < Config.modulus) :
    ranluxBuffer x - ranluxBuffer x / 2 ^ 336 + ranluxCarry x = x ∧ ranluxCarry x ≤ 1 := by
  rw [ranluxCarry_eq, ranluxBuffer_eq]
  unfold Config.modulus at *
  omega

theorem ranluxBuffer_toNat {x : Nat} (h : x < Config.modulus) :
    (BitVec.ofNat 576 (ranluxBuffer x)).toNat = ranluxBuffer x :=
  (BitVec.toNat_ofNat ..).trans (Nat.mod_eq_of_lt (ranluxBuffer_lt h))

theorem ranluxCarry_toNat {x : Nat} (h : x < Config.modulus) :
    (BitVec.ofNat 1 (ranluxCarry x)).toNat = ranluxCarry x :=
  (BitVec.toNat_ofNat ..).trans (Nat.mod_eq_of_lt (Nat.lt_succ_of_le (ranluxCarry_spec h).2))

/-- A residue is a 576-bit value that `Canon` keeps (41_codec.md R202). -/
theorem canon_ofNat_toNat {x : Nat} (h : x < Config.modulus) : (canon (BitVec.ofNat 576 x)).toNat = x := by
  have hsmall : (BitVec.ofNat 576 x).toNat = x :=
    (BitVec.toNat_ofNat ..).trans (Nat.mod_eq_of_lt (h.trans_le (modulus_add ▸ Nat.le_add_right ..)))
  rw [canon, if_neg (by omega), hsmall]

theorem toRanlux_ofNat {x : Nat} (h : x < Config.modulus) :
    toRanlux (BitVec.ofNat 576 x) = (BitVec.ofNat 576 (ranluxBuffer x), BitVec.ofNat 1 (ranluxCarry x)) := by
  rw [toRanlux, canon_ofNat_toNat h]

/-! ### One legacy step is one multiplication by `a` (41_codec.md R205) -/

/-- `a` is the inverse of `2^24` modulo `m`, so `a·x mod m` is `(x + m·k) / 2^24` for the one digit `k` that makes it whole. -/
theorem legacyMultiplier_digit {x : Nat} (h : x < Config.modulus) :
    ∃ k < 2 ^ 24, 2 ^ 24 * (legacyMultiplier * x % Config.modulus) = x + Config.modulus * k := by
  refine ⟨2 ^ 24 * (legacyMultiplier * x % Config.modulus) / Config.modulus, ?_⟩
  unfold legacyMultiplier
  unfold Config.modulus at *
  omega

/-- Division by `2^24` modulo `m` shifts the digits down by one and puts `k` on top. -/
theorem ranluxBuffer_shift {x x' k : Nat} (h : 2 ^ 24 * x' = x + Config.modulus * k) :
    ranluxBuffer x' = ranluxBuffer x / 2 ^ 24 + 2 ^ 552 * k := by
  rw [ranluxBuffer_eq, ranluxBuffer_eq]
  unfold Config.modulus at *
  omega

/-- `d_14 − d_0 − c` on the pair of a residue. -/
theorem legacyDifference_words {x : Nat} (h : x < Config.modulus) :
    legacyDifference (BitVec.ofNat 576 (ranluxBuffer x)) (BitVec.ofNat 1 (ranluxCarry x)) =
      ((ranluxBuffer x / 2 ^ 336 % 2 ^ 24 : Nat) : Int) - (ranluxBuffer x % 2 ^ 24 : Nat) - ranluxCarry x := by
  rw [legacyDifference, legacyWord, legacyWord, ranluxBuffer_toNat h, ranluxCarry_toNat h, Nat.shiftRight_eq_div_pow]
  rfl

/-- The difference is the new digit less the new carry as a borrow: the values of both pairs, compared through
`2^24·x' = x + m·k`, leave just this. -/
theorem legacyDifference_shift {x x' k : Nat} (hx : x < Config.modulus) (hx' : x' < Config.modulus)
    (h : 2 ^ 24 * x' = x + Config.modulus * k) :
    legacyDifference (BitVec.ofNat 576 (ranluxBuffer x)) (BitVec.ofNat 1 (ranluxCarry x)) =
      k - 2 ^ 24 * ranluxCarry x' := by
  have value := (ranluxCarry_spec hx).1
  have value' := (ranluxCarry_spec hx').1
  have high : (ranluxBuffer x / 2 ^ 24 + 2 ^ 552 * k) / 2 ^ 336 = ranluxBuffer x / 2 ^ 360 + 2 ^ 216 * k := by omega
  rw [ranluxBuffer_shift h, high] at value'
  rw [legacyDifference_words hx]
  unfold Config.modulus at h
  generalize ranluxBuffer x = y at *
  omega

theorem legacyStep_eq (p : Vec576 × BitVec 1) :
    legacyStep p =
      (BitVec.ofNat 576 (p.1.toNat / 2 ^ 24 + 2 ^ 552 * (legacyDifference p.1 p.2 % 2 ^ 24).toNat),
        if legacyDifference p.1 p.2 < 0 then 1 else 0) := by
  unfold legacyStep
  rfl

theorem legacyStep_toRanlux {x : Nat} (h : x < Config.modulus) :
    legacyStep (toRanlux (BitVec.ofNat 576 x)) =
      toRanlux (BitVec.ofNat 576 (legacyMultiplier * x % Config.modulus)) := by
  have hx' : legacyMultiplier * x % Config.modulus < Config.modulus := Nat.mod_lt _ modulus_pos
  obtain ⟨k, hk, hdigit⟩ := legacyMultiplier_digit h
  have hc' := (ranluxCarry_spec hx').2
  rw [toRanlux_ofNat h, toRanlux_ofNat hx', legacyStep_eq, legacyDifference_shift h hx' hdigit,
    ranluxBuffer_shift hdigit, ranluxBuffer_toNat h]
  generalize ranluxCarry (legacyMultiplier * x % Config.modulus) = c' at *
  congr 1
  · have newDigit : (((k : Int) - 2 ^ 24 * c') % 2 ^ 24).toNat = k := by omega
    rw [newDigit]
  · obtain rfl | rfl := Nat.le_one_iff_eq_zero_or_eq_one.mp hc'
    · exact if_neg (by omega)
    · exact if_pos (by omega)

theorem legacySteps_toRanlux (n : Nat) {x : Nat} (h : x < Config.modulus) :
    legacySteps n (toRanlux (BitVec.ofNat 576 x)) =
      toRanlux (BitVec.ofNat 576 (legacyMultiplier ^ n * x % Config.modulus)) := by
  induction n generalizing x with
  | zero => rw [legacySteps, Nat.pow_zero, Nat.one_mul, Nat.mod_eq_of_lt h]
  | succ n ih =>
    rw [legacySteps, legacyStep_toRanlux h, ih (Nat.mod_lt _ modulus_pos), Nat.pow_succ, Nat.mul_mod_mod, Nat.mul_assoc]

/-! ### The multiplier `A` and the reference words (10_state.md R40) -/

theorem kA_eq_legacyMultiplier_pow : Config.kA.toNat = legacyMultiplier ^ 2048 % Config.modulus := by decide +kernel

/-- Settles O24, by induction on the number of steps. -/
theorem legacyStepIsMultiplication : Obligations.LegacyStepIsMultiplication := by
  intro x h
  refine ⟨legacyStep_toRanlux h, ?_⟩
  rw [legacySteps_toRanlux 2048 h, kA_eq_legacyMultiplier_pow, Nat.mod_mul_mod]

theorem exec_seed (s : State) :
    exec .seed s = .next ((s.loadGenerator (toRanlux (seedLcg s.arg)) 0).setReady true) := rfl

theorem exec_next_of_ready {s : State} (h : s.ready = true) : exec .next s = .next (takeWord rawWord s) :=
  requireReady_of_ready h .next (takeWord rawWord)

/-- Settles O40: the two constants and the two words are evaluated, the three commands by their equations. -/
theorem seededReferenceWords : Obligations.SeededReferenceWords := by
  have ready_kept (s : State) : (takeWord rawWord s).ready = s.ready := (onlyGenerates_takeWord rawWord s).arg_ready.2
  refine ⟨kA_eq_legacyMultiplier_pow, by decide +kernel, _, _, _, exec_seed _, exec_next_of_ready rfl,
    exec_next_of_ready (ready_kept _), ?_, ?_⟩
  · decide +kernel
  · decide +kernel

end Sys2Proof.Machine
end

section
/-! PROOFS of the statements on the register window and the bus (20_memory.md): what a read returns, what a write stores or raises, the bytes of the window, the command issue, the completion of every step, and the routing of the platform. -/

namespace Sys2Proof.Machine

/-! ### Errors as states (60_exceptions.md R302) -/

/-- The state after an event that answers `resp` and raises the error numbered `code`, which is recorded if no other is. -/
def raisedState (code : BitVec 8) (info : BitVec 32) (rest : List BusEvent) (resp : Option Limb) (s : State) : State :=
  if s.err then { s with pending := rest, response := resp }
  else { s with pending := rest, response := resp, err := true, errCode := code, errInfo := info }

theorem raiseError_takeEvent (c : ErrorCode) (info : Nat) (rest : List BusEvent) (s : State) :
    raiseError c info (takeEvent rest s) = raisedState c.code (BitVec.ofNat 32 info) rest none s := by
  obtain ⟨herr, hr⟩ | ⟨herr, hr⟩ := raiseError_cases c info (takeEvent rest s) <;> rw [hr, raisedState]
  · exact (if_pos herr).symm
  · exact (if_neg (Bool.eq_false_iff.mp herr)).symm

theorem raisedState_setResponse (code : BitVec 8) (info : BitVec 32) (rest : List BusEvent) (q resp : Option Limb)
    (s : State) : (raisedState code info rest q s).setResponse resp = raisedState code info rest resp s := by
  rw [raisedState, raisedState]
  split <;> rfl

/-! ### Accesses by the offset of a register, and illegal ones (20_memory.md R75, R76, R78, R85) -/

theorem legalAccess_windowOffset (r : WinReg) : legalAccess (BitVec.ofNat 11 r.windowOffset) 8 = true :=
  (legalAccess_iff _ _).mpr ⟨rfl, r.windowOffset_toNat.symm ▸ r.windowOffset_bounds.1⟩

theorem not_legalAccess {off : WinOff} {n : Nat} (h : n ≠ 8 ∨ off.toNat % 8 ≠ 0) :
    ¬ legalAccess off n = true := by
  rw [legalAccess_iff]
  omega

theorem regValue_takeEvent (rest : List BusEvent) (s : State) (r : WinReg) :
    regValue (takeEvent rest s) r = regValue s r := by cases r <;> rfl

theorem step_read_register (r : WinReg) (rest : List BusEvent) (s : State) :
    step (s.setPending (.read (BitVec.ofNat 11 r.windowOffset) 8 :: rest)) =
      .next { s with pending := rest, response := some (regValue s r) } := by
  rw [step_setPending_cons, deliver, busRead, if_pos (legalAccess_windowOffset r), winLookup_windowOffset r,
    ← regValue_takeEvent rest s r]
  rfl

theorem step_write_register {r : WinReg} (hr : r ≠ .cmd) (v : Limb) (rest : List BusEvent) (s : State) :
    step (s.setPending (.write (BitVec.ofNat 11 r.windowOffset) 8 v :: rest)) =
      .next (writeReg r v (takeEvent rest s)) :=
  busWrite_register r hr v (takeEvent rest s)

theorem step_read_illegal {off : WinOff} {n : Nat} (h : n ≠ 8 ∨ off.toNat % 8 ≠ 0) (rest : List BusEvent) (s : State) :
    step (s.setPending (.read off n :: rest)) =
      .next (raisedState 5 (BitVec.ofNat 32 off.toNat) rest (some 0) s) := by
  rw [step_setPending_cons, deliver, busRead, if_neg (not_legalAccess h), raiseError_takeEvent,
    raisedState_setResponse]
  rfl

theorem step_write_illegal {off : WinOff} {n : Nat} (h : n ≠ 8 ∨ off.toNat % 8 ≠ 0) (v : Limb) (rest : List BusEvent)
    (s : State) :
    step (s.setPending (.write off n v :: rest)) =
      .next (raisedState 5 (BitVec.ofNat 32 off.toNat) rest none s) := by
  rw [step_setPending_cons, deliver, busWrite, if_neg (not_legalAccess h), raiseError_takeEvent]
  rfl

theorem step_read_unmapped {off : WinOff} (h : off.toNat % 8 = 0) (hr : ∀ r : WinReg, r.windowOffset ≠ off.toNat)
    (rest : List BusEvent) (s : State) :
    step (s.setPending (.read off 8 :: rest)) =
      .next (raisedState 4 (BitVec.ofNat 32 off.toNat) rest (some 0) s) := by
  rw [step_setPending_cons, deliver, busRead, if_pos ((legalAccess_iff off 8).mpr ⟨rfl, h⟩),
    (winLookup_eq_none_iff off h).mpr hr, raiseError_takeEvent, raisedState_setResponse]
  rfl

theorem step_write_unmapped {off : WinOff} (h : off.toNat % 8 = 0) (hr : ∀ r : WinReg, r.windowOffset ≠ off.toNat)
    (v : Limb) (rest : List BusEvent) (s : State) :
    step (s.setPending (.write off 8 v :: rest)) =
      .next (raisedState 4 (BitVec.ofNat 32 off.toNat) rest none s) := by
  rw [step_setPending_cons, deliver, busWrite, if_pos ((legalAccess_iff off 8).mpr ⟨rfl, h⟩),
    (winLookup_eq_none_iff off h).mpr hr, raiseError_takeEvent]
  rfl

/-! ### The values of reads (20_memory.md R78) -/

theorem limb_eq_ofNat {n : Nat} (x : BitVec n) (i : Nat) : limb x i = BitVec.ofNat 64 (x.toNat / 2 ^ (64 * i)) := by
  apply BitVec.eq_of_toNat_eq
  rw [limb_toNat, BitVec.toNat_ofNat]

/-- A field put above the bits of `x` is a summand. -/
theorem toNat_or_shiftLeft {x y : Limb} {k : Nat} (hx : x.toNat < 2 ^ k) (hy : y.toNat * 2 ^ k < 2 ^ 64) :
    (x ||| y <<< k).toNat = x.toNat + y.toNat * 2 ^ k := by
  rw [BitVec.toNat_or, BitVec.toNat_shiftLeft, Nat.shiftLeft_eq, Nat.mod_eq_of_lt hy, Nat.or_comm, Nat.mul_comm,
    ← Nat.two_pow_add_eq_or_of_lt hx, Nat.add_comm]

theorem bitOf_setWidth_toNat (b : Bool) : ((bitOf b).setWidth 64).toNat = b.toNat := by cases b <;> rfl

/-- The four fields of `STATUS` do not overlap, so its bits are their sum (10_state.md R34). -/
theorem statusWord_eq_ofNat (s : State) :
    statusWord s = BitVec.ofNat 64 (s.ready.toNat + s.err.toNat * 2 + s.errCode.toNat * 2 ^ 8 +
      s.errInfo.toNat * 2 ^ 16) := by
  have hready := s.ready.toNat_le
  have herr := s.err.toNat_le
  have hcode : (s.errCode.setWidth 64).toNat = s.errCode.toNat := BitVec.toNat_setWidth_of_le (by decide)
  have hinfo : (s.errInfo.setWidth 64).toNat = s.errInfo.toNat := BitVec.toNat_setWidth_of_le (by decide)
  have hcodeLt := s.errCode.isLt
  have hinfoLt := s.errInfo.isLt
  have hflags : ((bitOf s.ready).setWidth 64 ||| (bitOf s.err).setWidth 64 <<< 1).toNat =
      s.ready.toNat + s.err.toNat * 2 := by
    rw [toNat_or_shiftLeft] <;> simp only [bitOf_setWidth_toNat] <;> omega
  have hlow : ((bitOf s.ready).setWidth 64 ||| (bitOf s.err).setWidth 64 <<< 1 |||
      s.errCode.setWidth 64 <<< 8).toNat = s.ready.toNat + s.err.toNat * 2 + s.errCode.toNat * 2 ^ 8 := by
    rw [toNat_or_shiftLeft, hflags, hcode] <;> omega
  apply BitVec.eq_of_toNat_eq
  rw [statusWord, toNat_or_shiftLeft, hlow, hinfo, BitVec.toNat_ofNat, Nat.mod_eq_of_lt] <;> omega

/-- Settles O41: a legal read returns the register's value, whose formula is read off per register. -/
theorem readValues : Obligations.ReadValues := by
  refine ⟨fun s rest => ?_, fun s rest off n h => step_read_illegal h rest s,
    fun s rest off h hr => step_read_unmapped h hr rest s⟩
  intro read
  have value (r : WinReg) {v : Limb} (h : regValue s r = v) : read r v := h ▸ step_read_register r rest s
  exact ⟨value .id rfl, value .cfg rfl, value .ctrl rfl, value .cmd rfl, value .status (statusWord_eq_ofNat s),
    value .arg rfl, value .res rfl, value .offset (BitVec.ofNat_toNat ..).symm, value .carry (BitVec.ofNat_toNat ..).symm,
    fun i => ⟨value (.state i) (limb_eq_ofNat ..), value (.a i) (limb_eq_ofNat ..)⟩,
    fun i => value (.prod i) (limb_eq_ofNat ..), fun r i => value (.v r i) (limb_eq_ofNat ..)⟩

/-! ### Stores to data registers (20_memory.md R81, R83) -/

/-- The rule's formula, with its factors in the order the model has them. -/
theorem setLimb_toNat_comm {n : Nat} (x : BitVec n) (i : Nat) (v : Limb) (h : 64 * i + 64 ≤ n) :
    (setLimb x i v).toNat =
      x.toNat - 2 ^ (64 * i) * (x.toNat / 2 ^ (64 * i) % 2 ^ 64) + 2 ^ (64 * i) * v.toNat := by
  rw [setLimb_toNat x i v h, Nat.mul_comm _ (2 ^ (64 * i)), Nat.mul_comm _ (2 ^ (64 * i))]

/-- Settles O44: each write is the register's own store, whose value the limb formula gives. -/
theorem limbWritesStore : Obligations.LimbWritesStore := by
  intro s rest v
  exact ⟨step_write_register (r := .arg) nofun v rest s,
    fun i => ⟨_, setLimb_toNat_comm s.state i v (by omega), step_write_register (r := .state i) nofun v rest s⟩,
    fun i => ⟨_, setLimb_toNat_comm s.prod i v (by omega), step_write_register (r := .prod i) nofun v rest s⟩,
    fun r i => ⟨_, setLimb_toNat_comm s.vreg[r.val] i v (by omega),
      step_write_register (r := .v r i) nofun v rest s⟩⟩

/-- `v` is a value that the data register `r` stores (20_memory.md R81, R83). -/
def Stores (r : WinReg) (v : Limb) : Prop :=
  r.access = .readWrite ∨ (r = .offset ∧ v.toNat % 48 = 0 ∧ v.toNat ≤ 576) ∨ (r = .carry ∧ v.toNat ≤ 1)

/-- The registers that can store, and the check that `OFFSET` and `CARRY` make. -/
theorem Stores.register {r : WinReg} {v : Limb} (h : Stores r v) :
    r = .arg ∨ (r = .offset ∧ v.toNat % 48 = 0 ∧ v.toNat ≤ 576) ∨ (r = .carry ∧ v.toNat ≤ 1) ∨
      (∃ i, r = .state i) ∨ (∃ i, r = .prod i) ∨ ∃ q i, r = .v q i := by
  obtain h | h | h := h
  · cases r with
    | arg => exact .inl rfl
    | state i => exact .inr (.inr (.inr (.inl ⟨i, rfl⟩)))
    | prod i => exact .inr (.inr (.inr (.inr (.inl ⟨i, rfl⟩))))
    | v q i => exact .inr (.inr (.inr (.inr (.inr ⟨q, i, rfl⟩))))
    | _ => cases h
  · exact .inr (.inl h)
  · exact .inr (.inr (.inl h))

theorem writeOffset_of_legal {v : Limb} (h : v.toNat % 48 = 0 ∧ v.toNat ≤ 576) (s : State) :
    writeOffset v s = s.setOffset (v.setWidth 10) := if_pos h

theorem writeCarry_of_legal {v : Limb} (h : v.toNat ≤ 1) (s : State) :
    writeCarry v s = s.setCarry (v.setWidth 1) := if_pos h

/-- A value that fits the narrow register is zero-extended to itself. -/
theorem setWidth_setWidth_of_toNat_lt {v : Limb} {n : Nat} (h : v.toNat < 2 ^ n) : (v.setWidth n).setWidth 64 = v := by
  apply BitVec.eq_of_toNat_eq
  rw [BitVec.toNat_setWidth, BitVec.toNat_setWidth, Nat.mod_eq_of_lt h, Nat.mod_eq_of_lt v.isLt]

theorem regValue_writeReg_same {r : WinReg} {v : Limb} (h : Stores r v) (s : State) :
    regValue (writeReg r v s) r = v := by
  obtain rfl | ⟨rfl, hv⟩ | ⟨rfl, hv⟩ | ⟨i, rfl⟩ | ⟨i, rfl⟩ | ⟨q, i, rfl⟩ := h.register
  · rfl
  · rw [writeReg, writeOffset_of_legal hv]
    exact setWidth_setWidth_of_toNat_lt (n := 10) (by omega)
  · rw [writeReg, writeCarry_of_legal hv]
    exact setWidth_setWidth_of_toNat_lt (n := 1) (by omega)
  · exact limb_setLimb_same _ _ _ (by omega)
  · exact limb_setLimb_same _ _ _ (by omega)
  · rw [writeReg, regValue, State.readV_writeV_same]
    exact limb_setLimb_same _ _ _ (by omega)

/-- A store is seen in no other register: another limb of the same vector keeps its bits, any other register is another field. -/
theorem regValue_writeReg_ne {r r' : WinReg} {v : Limb} (h : Stores r v) (hne : r' ≠ r) (s : State) :
    regValue (writeReg r v s) r' = regValue s r' := by
  obtain rfl | ⟨rfl, hv⟩ | ⟨rfl, hv⟩ | ⟨i, rfl⟩ | ⟨i, rfl⟩ | ⟨q, i, rfl⟩ := h.register
  · cases r' with
    | arg => exact absurd rfl hne
    | _ => rfl
  · rw [writeReg, writeOffset_of_legal hv]
    cases r' with
    | offset => exact absurd rfl hne
    | _ => rfl
  · rw [writeReg, writeCarry_of_legal hv]
    cases r' with
    | carry => exact absurd rfl hne
    | _ => rfl
  · cases r' with
    | state j => exact limb_setLimb_ne _ _ _ _ (by omega) fun e => hne (Fin.ext e ▸ rfl)
    | _ => rfl
  · cases r' with
    | prod j => exact limb_setLimb_ne _ _ _ _ (by omega) fun e => hne (Fin.ext e ▸ rfl)
    | _ => rfl
  · cases r' with
    | v q' j =>
      rw [writeReg, regValue, regValue]
      by_cases hq : q = q'
      · subst hq
        rw [State.readV_writeV_same]
        exact limb_setLimb_ne _ _ _ _ (by omega) fun e => hne (Fin.ext e ▸ rfl)
      · rw [State.readV_writeV_ne _ _ _ _ hq]
    | _ => rfl

theorem windowByte_congr {s t : State} {a : WinOff}
    (h : ∀ r, winLookup a = some r → regValue t r = regValue s r) : windowByte t a = windowByte s a := by
  rw [windowByte, windowByte]
  cases hw : winLookup a with
  | none => rfl
  | some r => rw [Option.map_some, Option.map_some, h r hw]

/-- Settles O45: the register's own store, its frame over registers, and each byte outside belongs to another register. -/
theorem windowReadAfterWrite : Obligations.WindowReadAfterWrite := by
  intro s t rest r v h hstep
  have hstores : Stores r v := h
  have hcmd : r ≠ .cmd := by rintro rfl; simpa using hstores.register
  obtain rfl := Host.Outcome.next.inj ((step_write_register hcmd v rest s).symm.trans hstep)
  have frame (r' : WinReg) (hne : r' ≠ r) :
      regValue (writeReg r v (takeEvent rest s)) r' = regValue s r' :=
    (regValue_writeReg_ne hstores hne _).trans (regValue_takeEvent rest s r')
  refine ⟨regValue_writeReg_same hstores _, frame, fun a ha => windowByte_congr fun r' hr' => frame r' ?_⟩
  rintro rfl
  have := windowOffset_of_winLookup a r' hr'
  omega

/-! ### The bytes of the window (20_memory.md R77) -/

/-- Eight consecutive bytes from an aligned offset lie in one register. -/
theorem winLookup_eq_of_div_eq {a b : WinOff} (h : a.toNat / 8 = b.toNat / 8) : winLookup a = winLookup b := by
  rw [winLookup, winLookup, h]

theorem windowByte_windowOffset_add (s : State) (r : WinReg) {j : Nat} (hj : j < 8) :
    windowByte s (BitVec.ofNat 11 (r.windowOffset + j)) = some ((regValue s r).extractLsb' (8 * j) 8) := by
  obtain ⟨haligned, hinside⟩ := r.windowOffset_bounds
  have htoNat : (BitVec.ofNat 11 (r.windowOffset + j)).toNat = r.windowOffset + j := by
    rw [BitVec.toNat_ofNat, Nat.mod_eq_of_lt (by omega)]
  have hlookup : winLookup (BitVec.ofNat 11 (r.windowOffset + j)) = some r := by
    rw [← winLookup_windowOffset r]
    apply winLookup_eq_of_div_eq
    rw [htoNat, r.windowOffset_toNat]
    omega
  rw [windowByte, hlookup, htoNat, Option.map_some, show (r.windowOffset + j) % 8 = j by omega]

/-- Byte `j` of limb `q` is byte `8q + j` of the value. -/
theorem limb_extractLsb' {w : Nat} (x : BitVec w) (q : Nat) {j : Nat} (hj : j < 8) :
    (limb x q).extractLsb' (8 * j) 8 = x.extractLsb' (8 * (8 * q + j)) 8 := by
  apply BitVec.eq_of_getLsbD_eq
  intro k hk
  rw [limb, BitVec.getLsbD_extractLsb', BitVec.getLsbD_extractLsb', BitVec.getLsbD_extractLsb',
    decide_eq_true (show 8 * j + k < 64 by omega), Bool.true_and]
  congr 2
  omega

/-- `n` bytes of the window that are the bytes of `x` from byte `k` on, read as an integer. -/
theorem bytesValue_eq {w : Nat} (s : State) (x : BitVec w) (n base k : Nat)
    (h : ∀ i < n, windowByte s (BitVec.ofNat 11 (base + i)) = some (x.extractLsb' (8 * (k + i)) 8)) :
    bytesValue s base n = x.toNat / 2 ^ (8 * k) % 2 ^ (8 * n) := by
  induction n generalizing base k with
  | zero => rw [bytesValue, Nat.mul_zero, Nat.pow_zero, Nat.mod_one]
  | succ n ih =>
    have hfirst : windowByte s (BitVec.ofNat 11 base) = some (x.extractLsb' (8 * k) 8) := h 0 n.succ_pos
    have hrest := ih (base + 1) (k + 1) fun i hi => by
      rw [Nat.add_assoc base, Nat.add_assoc k, Nat.add_comm 1 i]
      exact h (i + 1) (Nat.succ_lt_succ hi)
    rw [bytesValue, hfirst, hrest, Option.getD_some, BitVec.extractLsb'_toNat, Nat.shiftRight_eq_div_pow,
      show 8 * (k + 1) = 8 * k + 8 by omega, show 8 * (n + 1) = 8 + 8 * n by omega, Nat.pow_add 2 (8 * k),
      ← Nat.div_div_eq_div_mul, Nat.pow_add 2 8, Nat.mod_mul]

/-- A register that the map lays out limb by limb from `base` on is little-endian as a whole. -/
theorem bytesValue_limbs {w n : Nat} (s : State) (x : BitVec w) (base : Nat) (reg : Fin n → WinReg)
    (hoffset : ∀ i, (reg i).windowOffset = base + 8 * i.val) (hvalue : ∀ i, regValue s (reg i) = limb x i.val)
    (hw : w ≤ 64 * n) : bytesValue s base (8 * n) = x.toNat := by
  rw [bytesValue_eq s x (8 * n) base 0, Nat.mul_zero, Nat.pow_zero, Nat.div_one]
  · apply Nat.mod_eq_of_lt
    exact x.isLt.trans_le (Nat.pow_le_pow_right (by decide) (by omega))
  · intro i hi
    have hq : i / 8 < n := by omega
    have hbyte := windowByte_windowOffset_add s (reg ⟨i / 8, hq⟩) (Nat.mod_lt i (by decide : 0 < 8))
    rw [hoffset, hvalue, limb_extractLsb' _ _ (Nat.mod_lt i (by decide)), Nat.add_assoc, Nat.div_add_mod] at hbyte
    rw [hbyte, Nat.zero_add]

/-- Settles O49: the four kinds of register that the map lays out by limbs. -/
theorem windowIsLittleEndian : Obligations.WindowIsLittleEndian := fun s =>
  ⟨bytesValue_limbs (n := 9) s s.state 0x080 .state (fun _ => rfl) (fun _ => rfl) (by decide),
    bytesValue_limbs (n := 9) s Config.kA 0x100 .a (fun _ => rfl) (fun _ => rfl) (by decide),
    bytesValue_limbs (n := 18) s s.prod 0x200 .prod (fun _ => rfl) (fun _ => rfl) (by decide),
    fun r => bytesValue_limbs (n := 9) s s.vreg[r.val] (0x400 + 0x80 * r.val) (.v r) (fun _ => rfl) (fun _ => rfl)
      (by decide)⟩

/-! ### The command issue (20_memory.md R84, 30_encoding.md R120) -/

theorem step_commandEvent {s : State} {v : Limb} {i : Instr} (herr : s.err = false) (h : decodeCommand v = .ok i)
    (rest : List BusEvent) : step (s.setPending (commandEvent v :: rest)) = exec i (takeEvent rest s) := by
  rw [step_setPending_cons, commandEvent, deliver, busWrite_cmd]
  obtain ⟨herr', -⟩ | ⟨-, e, he, -⟩ | ⟨-, j, hj, hissue⟩ := issueCommand_cases v (takeEvent rest s)
  · cases herr.symm.trans herr'
  · cases h.symm.trans he
  · obtain rfl := Except.ok.inj (h.symm.trans hj)
    exact hissue

theorem decodeCommand_of_decodeTableWord {n w : Nat} {i : Instr} (h : decodeTableWord n w = some i) :
    decodeCommand (BitVec.ofNat 64 (w % 2 ^ n)) = .ok i := by
  unfold decodeTableWord at h
  split at h
  case h_1 j hj => exact hj.trans (congrArg Except.ok (Option.some.inj h))
  case h_2 => cases h

/-- Settles O9: `withFetchWord` is a pending `CMD` write like any other. -/
theorem stepRunsTheDecodedCommand : Obligations.StepRunsTheDecodedCommand :=
  ⟨fun _ rest _ _ herr h => step_commandEvent herr h rest,
    fun s _ _ herr h => step_commandEvent herr (decodeCommand_of_decodeTableWord h) s.pending⟩

/-! ### Completion (20_memory.md R88, R90, R92) -/

@[simp] theorem raiseError_pending (c : ErrorCode) (info : Nat) (s : State) :
    (raiseError c info s).pending = s.pending := by
  obtain ⟨-, h⟩ | ⟨-, h⟩ := raiseError_cases c info s <;> rw [h]
  rfl

@[simp] theorem raiseError_response (c : ErrorCode) (info : Nat) (s : State) :
    (raiseError c info s).response = s.response := by
  obtain ⟨-, h⟩ | ⟨-, h⟩ := raiseError_cases c info s <;> rw [h]
  rfl

theorem OnlyGenerates.pending_response {s t : State} (h : OnlyGenerates s t) :
    t.pending = s.pending ∧ t.response = s.response := by
  obtain ⟨_, _, _, rfl⟩ := h
  exact ⟨rfl, rfl⟩

theorem requireReady_completes (i : Instr) {run : State → State} {s : State} (hrun : OnlyGenerates s (run s)) :
    ∃ t, requireReady i run s = .next t ∧ t.pending = s.pending ∧ t.response = s.response := by
  obtain ⟨-, h⟩ | ⟨-, h⟩ := requireReady_cases i run s
  · exact ⟨_, h, hrun.pending_response⟩
  · exact ⟨_, h, raiseError_pending .., raiseError_response ..⟩

theorem exec_completes (i : Instr) (s : State) :
    ∃ t, exec i s = .next t ∧ t.pending = s.pending ∧ t.response = s.response := by
  cases i with
  | nop | mul | red | mulmod | powmod | lda | mov | tolcg | toranlux | seed | restore => exact ⟨_, rfl, rfl, rfl⟩
  | advance => exact requireReady_completes .advance (onlyGenerates_advance s)
  | next => exact requireReady_completes .next (onlyGenerates_takeWord _ s)
  | skip => exact requireReady_completes .skip (onlyGenerates_skipWords _ s)
  | nextdbl => exact requireReady_completes .nextdbl (onlyGenerates_takeWord _ s)

theorem writeReg_pending (r : WinReg) (v : Limb) (s : State) : (writeReg r v s).pending = s.pending := by
  cases r with
  | id | cfg | status | res | a => exact raiseError_pending ..
  | ctrl =>
    rw [writeReg]
    obtain ⟨-, h⟩ | ⟨-, h⟩ | ⟨-, h⟩ | ⟨-, h⟩ := writeCtrl_cases v s <;> rw [h]
    · exact raiseError_pending ..
    · rfl
    · rfl
  | offset =>
    rw [writeReg]
    obtain ⟨-, h⟩ | ⟨-, h⟩ := writeOffset_cases v s <;> rw [h]
    · rfl
    · exact raiseError_pending ..
  | carry =>
    rw [writeReg]
    obtain ⟨-, h⟩ | ⟨-, h⟩ := writeCarry_cases v s <;> rw [h]
    · rfl
    · exact raiseError_pending ..
  | cmd | arg | state | prod | v => rfl

theorem busRead_pending (off : WinOff) (n : Nat) (s : State) : (busRead off n s).pending = s.pending := by
  obtain ⟨-, h⟩ | ⟨-, -, h⟩ | ⟨-, r, -, h⟩ := busRead_cases off n s <;> rw [h]
  · exact raiseError_pending ..
  · exact raiseError_pending ..
  · rfl

theorem issueCommand_completes (v : Limb) (s : State) :
    ∃ t, issueCommand v s = .next t ∧ t.pending = s.pending := by
  obtain ⟨-, h⟩ | ⟨-, _, -, h⟩ | ⟨-, i, -, h⟩ := issueCommand_cases v s
  · exact ⟨_, h, rfl⟩
  · exact ⟨_, h, rfl⟩
  · obtain ⟨t, ht, hpending, -⟩ := exec_completes i s
    exact ⟨t, h.trans ht, hpending⟩

theorem busWrite_completes (off : WinOff) (n : Nat) (v : Limb) (s : State) :
    ∃ t, busWrite off n v s = .next t ∧ t.pending = s.pending := by
  obtain ⟨-, h⟩ | ⟨-, -, h⟩ | ⟨-, h⟩ | ⟨-, r, -, -, h⟩ := busWrite_cases off n v s
  · exact ⟨_, h, raiseError_pending ..⟩
  · exact ⟨_, h, raiseError_pending ..⟩
  · exact h ▸ issueCommand_completes v s
  · exact ⟨_, h, writeReg_pending ..⟩

theorem deliver_completes (e : BusEvent) (s : State) : ∃ t, deliver e s = .next t ∧ t.pending = s.pending := by
  cases e with
  | read off n => exact ⟨_, rfl, busRead_pending off n s⟩
  | write off n v => exact busWrite_completes off n v s
  | elsewhere | reset | abandonedCmd | powerCycle => exact ⟨_, rfl, rfl⟩

theorem step_of_pending_nil {s : State} (h : s.pending = []) : step s = .next s := by rw [step, h]

theorem step_of_pending_cons {s : State} {e : BusEvent} {rest : List BusEvent} (h : s.pending = e :: rest) :
    step s = deliver e (takeEvent rest s) := by rw [step, h]

/-- Settles O10, by whether an event is pending. -/
theorem everyStepAndCommandCompletes : Obligations.EveryStepAndCommandCompletes := by
  refine ⟨fun s => ?_, exec_completes⟩
  cases hp : s.pending with
  | nil => exact ⟨s, step_of_pending_nil hp, hp, fun _ => rfl⟩
  | cons e rest =>
    obtain ⟨t, ht, hpending⟩ := deliver_completes e (takeEvent rest s)
    exact ⟨t, (step_of_pending_cons hp).trans ht, hpending, nofun⟩

/-! ### Reads change nothing (20_memory.md R79) -/

theorem sameBlock_takeEvent (rest : List BusEvent) (s : State) : SameBlock s (takeEvent rest s) := by
  cases s
  rfl

theorem OnlyReports.sameBlock {s t : State} {rest : List BusEvent} (h : OnlyReports (takeEvent rest s) t) :
    SameBlock s { t with err := s.err, errCode := s.errCode, errInfo := s.errInfo } := by
  obtain ⟨_, _, _, _, rfl⟩ := h
  cases s
  rfl

/-- Settles O42: any read only reports, and a read of a register only answers with its value. -/
theorem readsChangeNothing : Obligations.ReadsChangeNothing := by
  constructor
  · intro s t rest off n h
    obtain rfl : busRead off n (takeEvent rest s) = t := Host.Outcome.next.inj h
    refine ⟨(onlyReports_busRead off n _).sameBlock, ?_⟩
    rintro rfl ⟨r, hr⟩
    obtain rfl : BitVec.ofNat 11 r.windowOffset = off := by rw [hr, BitVec.ofNat_toNat, BitVec.setWidth_eq]
    rw [Host.Outcome.next.inj (h.symm.trans (step_read_register r rest s))]
    rfl
  · intro s t u rest r hs ht
    obtain rfl := Host.Outcome.next.inj ((step_read_register r (rd r :: rest) s).symm.trans hs)
    obtain rfl := Host.Outcome.next.inj ((step_read_register r rest _).symm.trans ht)
    cases r <;> rfl

/-! ### Writes that raise or act (20_memory.md R80, R82, R83) -/

theorem writeReg_readOnly {r : WinReg} (h : r.access = .readOnly) (v : Limb) (s : State) :
    writeReg r v s = raiseError .roWrite r.windowOffset s := by
  cases r with
  | id | cfg | status | res | a => rfl
  | ctrl | cmd | arg | offset | carry | state | prod | v => cases h

/-- Settles O43, from the one rule of the read-only registers. -/
theorem readOnlyWritesRaise : Obligations.ReadOnlyWritesRaise := by
  intro s rest r v h
  have hro : r.access = .readOnly := by obtain rfl | rfl | rfl | rfl | ⟨i, rfl⟩ := h <;> rfl
  have hcmd : r ≠ .cmd := by rintro rfl; cases hro
  rw [step_write_register hcmd, writeReg_readOnly hro, raiseError_takeEvent]
  rfl

theorem writeCtrl_of_four_le {v : Limb} (h : 4 ≤ v.toNat) (s : State) :
    writeCtrl v s = raiseError .value 0x010 s := by
  obtain ⟨-, hw⟩ | ⟨rfl | rfl, -⟩ | ⟨rfl, -⟩ | ⟨rfl, -⟩ := writeCtrl_cases v s
  · exact hw
  all_goals exact absurd h (by decide)

/-- Settles O46: the four values a `CTRL` write distinguishes. -/
theorem ctrlWrites : Obligations.CtrlWrites := by
  intro s rest v after t
  have hafter : after = .next (writeCtrl v (takeEvent rest s)) := step_write_register (r := .ctrl) nofun v rest s
  refine ⟨fun hv => ?_, ?_, ?_, ?_⟩
  · rw [hafter, writeCtrl_of_four_le hv, raiseError_takeEvent]
    rfl
  · rintro (rfl | rfl) <;> exact hafter
  · rintro rfl; exact hafter
  · rintro rfl; exact hafter

/-- Settles O47, by whether the value passes the check. -/
theorem checkedWrites : Obligations.CheckedWrites := by
  intro s rest v t
  constructor
  · refine (step_write_register (r := .offset) nofun v rest s).trans (congrArg Host.Outcome.next ?_)
    rw [writeReg]
    obtain ⟨hv, h⟩ | ⟨hv, h⟩ := writeOffset_cases v (takeEvent rest s) <;> rw [h]
    · rw [if_pos hv, BitVec.ofNat_toNat]
      rfl
    · rw [if_neg hv, raiseError_takeEvent]
      rfl
  · refine (step_write_register (r := .carry) nofun v rest s).trans (congrArg Host.Outcome.next ?_)
    rw [writeReg]
    obtain ⟨hv, h⟩ | ⟨hv, h⟩ := writeCarry_cases v (takeEvent rest s) <;> rw [h]
    · rw [if_pos (Nat.le_one_iff_eq_zero_or_eq_one.mp hv), BitVec.ofNat_toNat]
      rfl
    · rw [if_neg (mt Nat.le_one_iff_eq_zero_or_eq_one.mpr hv), raiseError_takeEvent]
      rfl

/-- Settles O48, from the rule of each kind of illegal access. -/
theorem illegalAccessesRaise : Obligations.IllegalAccessesRaise := by
  intro s rest off n v raised
  refine ⟨fun h => ⟨step_write_illegal h v rest s, step_read_illegal h rest s⟩, ?_⟩
  rintro rfl h hr
  exact ⟨step_write_unmapped h hr v rest s, step_read_unmapped h hr rest s⟩

/-! ### The platform (20_memory.md R71) -/

theorem route_of_outside {base addr : Nat} (h : ¬ (base ≤ addr ∧ addr < base + 0x800)) : route base addr = none :=
  if_neg h

theorem route_base_add {base off : Nat} (h : off < 0x800) : route base (base + off) = some (BitVec.ofNat 11 off) := by
  rw [route, if_pos ⟨Nat.le_add_right .., Nat.add_lt_add_left h base⟩, Nat.add_sub_cancel_left]

theorem eventAt_of_outside {q : BusRequest} {base addr : Nat}
    (hq : (∃ n, q = .read addr n) ∨ ∃ n v, q = .write addr n v)
    (h : ¬ (base ≤ addr ∧ addr < base + 0x800)) : q.eventAt base = .elsewhere := by
  obtain ⟨n, rfl⟩ | ⟨n, v, rfl⟩ := hq <;> rw [BusRequest.eventAt, route_of_outside h]

/-- Settles O59: outside the window the block receives `elsewhere`; requests and steps act on each block of the platform alone. -/
theorem accessOutsideTheWindowChangesNothing : Obligations.AccessOutsideTheWindowChangesNothing := by
  refine ⟨fun q b addr hq hout hpending => ?_, fun base off h => route_base_add h, fun q p p' => ?_⟩
  · refine ⟨takeEvent [] b.state, ?_, sameBlock_takeEvent [] b.state⟩
    rw [Platform.request, List.map_singleton, eventAt_of_outside hq hout, hpending]
    rfl
  · rw [Platform.request, Platform.request, Platform.request, List.map_append]
    exact List.map_append

end Sys2Proof.Machine
end

section
/-! PROOFS of the statements on the command word (30_encoding.md): mask and match, the checks of a `CMD` write in their order, and what each command writes. -/

namespace Sys2Proof

/-! ### The places of a word as the rules write them (00_scope.md R17) -/

theorem extractLsb'_one_eq_zero_iff {m : Nat} (x : BitVec m) (k : Nat) :
    x.extractLsb' k 1 = 0 ↔ x.getLsbD k = false := by
  have bit : ∀ y : BitVec 1, y = 0 ↔ (y == 1#1) = false := by decide
  rw [BitVec.getLsbD_eq_extractLsb']
  exact bit _

/-- A field that reaches the top of a word is what a right shift leaves of it. -/
theorem extractLsb'_top_eq_zero_iff {m : Nat} (x : BitVec m) {k n : Nat} (h : m ≤ k + n) :
    x.extractLsb' k n = 0 ↔ x >>> k = 0 := by
  have hfits : x.toNat / 2 ^ k < 2 ^ n := by
    apply Nat.div_lt_of_lt_mul
    rw [← Nat.pow_add]
    exact x.isLt.trans_le (Nat.pow_le_pow_right (by decide) h)
  rw [← BitVec.toNat_inj, ← BitVec.toNat_inj, BitVec.extractLsb'_toNat, BitVec.toNat_ushiftRight,
    Nat.shiftRight_eq_div_pow, Nat.mod_eq_of_lt hfits]
  rfl

/-! ### A narrow value in a 64-bit write -/

theorem toNat_setWidth_limb {n : Nat} (y : BitVec n) (h : n ≤ 64) : (y.setWidth 64).toNat = y.toNat := by
  rw [BitVec.toNat_setWidth, Nat.mod_eq_of_lt (y.isLt.trans_le (Nat.pow_le_pow_right (by decide) h))]

theorem setWidth_setWidth_limb {n : Nat} (y : BitVec n) (h : n ≤ 64) : (y.setWidth 64).setWidth n = y := by
  rw [BitVec.setWidth_setWidth_of_le _ h, BitVec.setWidth_eq]

/-! ### The checks on the fields of a word (30_encoding.md R117) -/

theorem CommandFields.split_opc (w : CmdWord) : (CommandFields.split w).opc = w.setWidth 8 :=
  (BitVec.setWidth_eq_extractLsb' (by decide)).symm

/-- A reserved bit, or a bit of a register field that `u` does not use, is set (30_encoding.md R117). -/
def ReservedBitSet (u : FieldUse) (w : CmdWord) : Prop :=
  w.getLsbD 11 = true ∨ w.getLsbD 15 = true ∨ w >>> 19 ≠ 0 ∨
    (u.rd = false ∧ w.extractLsb' 8 3 ≠ 0) ∨ (u.ra = false ∧ w.extractLsb' 12 3 ≠ 0) ∨
    (u.rb = false ∧ w.extractLsb' 16 3 ≠ 0)

theorem wellFormed_split_iff (u : FieldUse) (w : CmdWord) :
    (CommandFields.split w).wellFormed u = true ↔ ¬ ReservedBitSet u w := by
  have z2 : w.extractLsb' 19 13 = 0 ↔ w >>> 19 = 0 := extractLsb'_top_eq_zero_iff w (by decide)
  simp only [CommandFields.wellFormed_iff, CommandFields.split, extractLsb'_one_eq_zero_iff, z2, ReservedBitSet, not_or,
    not_and, not_not, Bool.not_eq_true, ne_eq, and_assoc]
  simp only [or_iff_not_imp_left, Bool.not_eq_true]

/-! ### What the decoder answers (30_encoding.md R116, R117, R120) -/

theorem decode_of_illegal {w : CmdWord} (h : ∀ op : Opcode, op.byte ≠ w.setWidth 8) :
    decode w = .error .illegalOpcode := by
  rw [← CommandFields.split_opc] at h
  rw [decode, (Opcode.lookup_eq_none_iff _).mpr h]

theorem decode_of_legal {w : CmdWord} {op : Opcode} (h : op.byte = w.setWidth 8) :
    decode w = if (CommandFields.split w).wellFormed op.use then
        .ok (op.build (w.extractLsb' 8 3).toFin (w.extractLsb' 12 3).toFin (w.extractLsb' 16 3).toFin)
      else .error .reservedField := by
  rw [← CommandFields.split_opc] at h
  rw [decode, (Opcode.lookup_eq_some_iff _ _).mpr h]
  rfl

theorem decode_of_reserved {w : CmdWord} {op : Opcode} (h : op.byte = w.setWidth 8) (hbad : ReservedBitSet op.use w) :
    decode w = .error .reservedField := by
  rw [decode_of_legal h, if_neg (mt (wellFormed_split_iff _ _).mp (not_not.mpr hbad))]

theorem decode_of_unreserved {w : CmdWord} {op : Opcode} (h : op.byte = w.setWidth 8)
    (hgood : ¬ ReservedBitSet op.use w) :
    decode w = .ok (op.build (w.extractLsb' 8 3).toFin (w.extractLsb' 12 3).toFin (w.extractLsb' 16 3).toFin) := by
  rw [decode_of_legal h, if_pos ((wellFormed_split_iff _ _).mpr hgood)]

theorem decodeCommand_of_upper {v : Limb} (h : v >>> 32 ≠ 0) : decodeCommand v = .error .upperBits :=
  if_neg (mt (extractLsb'_top_eq_zero_iff v (by decide)).mp h)

theorem decodeCommand_of_lower {v : Limb} (h : v >>> 32 = 0) : decodeCommand v = decode (v.setWidth 32) :=
  if_pos ((extractLsb'_top_eq_zero_iff v (by decide)).mpr h)

theorem setWidth_ushiftRight_eq_zero (w : CmdWord) : w.setWidth 64 >>> 32 = 0 := by
  apply BitVec.eq_of_toNat_eq
  rw [BitVec.toNat_ushiftRight, toNat_setWidth_limb w (by decide), Nat.shiftRight_eq_div_pow, Nat.div_eq_of_lt w.isLt]
  rfl

theorem decodeCommand_setWidth (w : CmdWord) : decodeCommand (w.setWidth 64) = decode w := by
  rw [decodeCommand_of_lower (setWidth_ushiftRight_eq_zero w), setWidth_setWidth_limb w (by decide)]

/-! ### A row of the table by its fields (30_encoding.md R111, R115) -/

/-- The AND of two words is taken field by field. -/
theorem CommandFields.pack_and_pack (f g : CommandFields) :
    f.pack &&& g.pack = CommandFields.pack ⟨f.opc &&& g.opc, f.rd &&& g.rd, f.z0 &&& g.z0, f.ra &&& g.ra,
      f.z1 &&& g.z1, f.rb &&& g.rb, f.z2 &&& g.z2⟩ := by
  apply BitVec.eq_of_getLsbD_eq
  intro i _
  simp only [CommandFields.pack, BitVec.getLsbD_and, BitVec.getLsbD_append]
  split_ifs <;> rfl

theorem CommandFields.pack_inj {f g : CommandFields} : f.pack = g.pack ↔ f = g :=
  ⟨fun h => by rw [← CommandFields.split_pack f, h, CommandFields.split_pack], congrArg _⟩

theorem Opcode.matchWord_eq_pack (op : Opcode) : op.matchWord = CommandFields.pack ⟨op.byte, 0, 0, 0, 0, 0, 0⟩ := by
  cases op <;> rfl

/-- The mask leaves out the register fields that the row uses, and nothing else. -/
theorem Opcode.maskWord_eq_pack (op : Opcode) :
    op.maskWord = CommandFields.pack ⟨.allOnes 8, if op.use.rd then 0 else .allOnes 3, .allOnes 1,
      if op.use.ra then 0 else .allOnes 3, .allOnes 1, if op.use.rb then 0 else .allOnes 3, .allOnes 13⟩ := by
  cases op <;> rfl

theorem and_fieldMask_eq_zero_iff (u : Bool) (x : BitVec 3) :
    x &&& (if u then 0 else .allOnes 3) = 0 ↔ u = true ∨ x = 0 := by
  cases u with
  | false => simp only [Bool.false_eq_true, if_false, BitVec.and_allOnes, false_or]
  | true => simp

/-- Mask and match compare exactly what the decoder checks: the opcode and the places that must be 0. -/
theorem and_maskWord_eq_matchWord_iff (w : CmdWord) (op : Opcode) :
    w &&& op.maskWord = op.matchWord ↔ op.byte = w.setWidth 8 ∧ ¬ ReservedBitSet op.use w := by
  rw [← wellFormed_split_iff, ← CommandFields.split_opc]
  conv_lhs => rw [← CommandFields.pack_split w, Opcode.maskWord_eq_pack, Opcode.matchWord_eq_pack,
    CommandFields.pack_and_pack, CommandFields.pack_inj, CommandFields.mk.injEq]
  simp only [BitVec.and_allOnes, and_fieldMask_eq_zero_iff, CommandFields.wellFormed_iff]
  tauto

theorem Opcode.opcode_build (op : Opcode) (rd ra rb : VReg) : (op.build rd ra rb).opcode = op := by
  cases op <;> rfl

theorem decode_of_maskWord {w : CmdWord} {op : Opcode} (h : w &&& op.maskWord = op.matchWord) :
    decode w = .ok (op.build (w.extractLsb' 8 3).toFin (w.extractLsb' 12 3).toFin (w.extractLsb' 16 3).toFin) :=
  have ⟨hop, hgood⟩ := (and_maskWord_eq_matchWord_iff w op).mp h
  decode_of_unreserved hop hgood

theorem maskWord_of_decode {w : CmdWord} {i : Instr} (h : decode w = .ok i) :
    w &&& i.opcode.maskWord = i.opcode.matchWord := by
  obtain ⟨-, he⟩ | ⟨op, hop, ⟨-, he⟩ | ⟨hwf, he⟩⟩ := decode_cases w
  · cases he.symm.trans h
  · cases he.symm.trans h
  · obtain rfl := Except.ok.inj (he.symm.trans h)
    rw [Opcode.opcode_build]
    exact (and_maskWord_eq_matchWord_iff w op).mpr
      ⟨hop.trans (CommandFields.split_opc w), (wellFormed_split_iff _ _).mp hwf⟩

/-- Settles O3: a word that decodes matches its own row, and a word that matches a row decodes to its command. -/
theorem maskAndMatchSelectTheCommand : Obligations.MaskAndMatchSelectTheCommand := by
  refine ⟨fun w op => ⟨?_, fun h => ⟨_, decode_of_maskWord h, op.opcode_build ..⟩⟩,
    fun w op h => decode_of_maskWord h, rfl, rfl⟩
  rintro ⟨i, h, rfl⟩
  exact maskWord_of_decode h

end Sys2Proof

namespace Sys2Proof.Machine

/-! ### The checks of a `CMD` write (30_encoding.md R120) -/

theorem step_commandEvent_discarded {s : State} (herr : s.err = true) (v : Limb) (rest : List BusEvent) :
    step (s.setPending (commandEvent v :: rest)) = .next (takeEvent rest s) := by
  rw [step_setPending_cons, commandEvent, deliver, busWrite_cmd]
  exact if_pos herr

theorem ofNat_toNat_mod (v : Limb) : BitVec.ofNat 32 (v.toNat % 2 ^ 32) = v.setWidth 32 := by
  apply BitVec.eq_of_toNat_eq
  rw [BitVec.toNat_ofNat, BitVec.toNat_setWidth, Nat.mod_mod]

theorem step_commandEvent_error {s : State} {v : Limb} {e : DecodeError} (herr : s.err = false)
    (h : decodeCommand v = .error e) (rest : List BusEvent) :
    step (s.setPending (commandEvent v :: rest)) =
      .next { takeEvent rest s with err := true, errCode := (decodeErrorCode e).code, errInfo := v.setWidth 32 } := by
  rw [step_setPending_cons, commandEvent, deliver, busWrite_cmd]
  obtain ⟨herr', -⟩ | ⟨-, e', he, hissue⟩ | ⟨-, i, hi, -⟩ := issueCommand_cases v (takeEvent rest s)
  · cases herr.symm.trans herr'
  · obtain rfl := Except.error.inj (h.symm.trans he)
    rw [hissue, ofNat_toNat_mod]
    rfl
  · cases h.symm.trans hi

/-- A generator command in Uninitialized (60_exceptions.md R305). -/
theorem exec_of_not_ready {i : Instr} {s : State} (hi : i.opcode.needsReady = true) (hs : s.ready = false)
    (herr : s.err = false) : exec i s = .next { s with err := true, errCode := 3, errInfo := encode i } := by
  have unready (run : State → State) :
      requireReady i run s = .next { s with err := true, errCode := 3, errInfo := encode i } := by
    obtain ⟨hs', -⟩ | ⟨-, h⟩ := requireReady_cases i run s
    · cases hs.symm.trans hs'
    · rw [h, raiseError_of_noError herr, commandInfo, BitVec.ofNat_toNat, BitVec.setWidth_eq]
      rfl
  cases i with
  | advance | next | skip | nextdbl => exact unready _
  | nop | mul | red | mulmod | powmod | lda | mov | tolcg | toranlux | seed | restore => cases hi

theorem lookup_eq_none_iff_range (b : BitVec 8) :
    Opcode.lookup b = none ↔ b.toNat = 0x07 ∨ (0x0A ≤ b.toNat ∧ b.toNat ≤ 0x0F) ∨ 0x16 ≤ b.toNat := by
  revert b
  decide +kernel

/-- Settles O5: the byte ranges by the lookup's table, the step by the decoder's answer. -/
theorem illegalOpcodesRaiseOpc : Obligations.IllegalOpcodesRaiseOpc := by
  refine ⟨fun b => (Opcode.lookup_eq_none_iff b).symm.trans (lookup_eq_none_iff_range b), fun s rest w herr h => ?_⟩
  have hdecode := (decodeCommand_setWidth w).trans (decode_of_illegal h)
  rw [step_commandEvent_error herr hdecode, setWidth_setWidth_limb w (by decide)]
  rfl

/-- The reserved places below bit 32 are the same in the write and in its command word. -/
theorem reservedBitSet_setWidth_iff (u : FieldUse) (v : Limb) :
    ReservedBitSet u (v.setWidth 32) ↔
      v.getLsbD 11 = true ∨ v.getLsbD 15 = true ∨ v.extractLsb' 19 13 ≠ 0 ∨
        (u.rd = false ∧ v.extractLsb' 8 3 ≠ 0) ∨ (u.ra = false ∧ v.extractLsb' 12 3 ≠ 0) ∨
        (u.rb = false ∧ v.extractLsb' 16 3 ≠ 0) := by
  have field {k n : Nat} (h : k + n ≤ 32) : (v.setWidth 32).extractLsb' k n = v.extractLsb' k n :=
    BitVec.extractLsb'_setWidth_of_le h
  have bit {k : Nat} (h : k < 32) : (v.setWidth 32).getLsbD k = v.getLsbD k := by
    rw [BitVec.getLsbD_setWidth, decide_eq_true h, Bool.true_and]
  have z2 : v.setWidth 32 >>> 19 ≠ 0 ↔ v.extractLsb' 19 13 ≠ 0 := by
    rw [← field (by decide), Ne, Ne, extractLsb'_top_eq_zero_iff _ (by decide)]
  rw [ReservedBitSet, bit (by decide), bit (by decide), z2, field (by decide), field (by decide), field (by decide)]

theorem setWidth_setWidth_opcode (v : Limb) : (v.setWidth 32).setWidth 8 = v.setWidth 8 :=
  BitVec.setWidth_setWidth_of_le _ (by decide)

/-- Settles O6: bits 63:32 are checked first, and both checks raise `E_RSV`. -/
theorem reservedBitsRaiseRsv : Obligations.ReservedBitsRaiseRsv := by
  intro s rest v op herr hop hset
  by_cases hu : v >>> 32 = 0
  · have hlow : ReservedBitSet op.use (v.setWidth 32) := (reservedBitSet_setWidth_iff op.use v).mpr
      (hset.resolve_left (not_not.mpr ((extractLsb'_top_eq_zero_iff v (by decide)).mpr hu)))
    have hdecode := decode_of_reserved (hop.trans (setWidth_setWidth_opcode v).symm) hlow
    exact step_commandEvent_error herr ((decodeCommand_of_lower hu).trans hdecode) rest
  · exact step_commandEvent_error herr (decodeCommand_of_upper hu) rest

/-- Settles O7, check by check; the word of a command that runs is its encoding, which `E_NOTREADY` records. -/
theorem commandChecksRunInOrder : Obligations.CommandChecksRunInOrder := by
  intro s rest v w t after
  refine ⟨fun herr => step_commandEvent_discarded herr v rest, fun herr =>
    ⟨fun hu => step_commandEvent_error herr (decodeCommand_of_upper hu) rest, fun hu => ?_⟩⟩
  have hlower : decodeCommand v = decode w := decodeCommand_of_lower hu
  refine ⟨fun hillegal => step_commandEvent_error herr (hlower.trans (decode_of_illegal hillegal)) rest, ?_⟩
  intro op hop bad
  have runs (hgood : ¬ bad) : after = exec _ t :=
    step_commandEvent herr (hlower.trans (decode_of_unreserved hop hgood)) rest
  refine ⟨fun hbad => step_commandEvent_error herr (hlower.trans (decode_of_reserved hop hbad)) rest,
    fun hgood hneeds hs => ?_, fun hgood _ => runs hgood⟩
  rw [runs hgood, exec_of_not_ready (s := t) (by rwa [Opcode.opcode_build]) hs herr,
    encode_of_decode (decode_of_unreserved hop hgood)]

/-! ### What each command writes (30_encoding.md R114) -/

/-- The commands that name `r` as their destination. -/
def VectorDestination (r : VReg) (i : Instr) : Prop :=
  i = .red r ∨ (∃ ra rb, i = .mulmod r ra rb) ∨ (∃ ra, i = .powmod r ra) ∨ i = .lda r ∨ (∃ ra, i = .mov r ra) ∨
    i = .tolcg r

/-- What a command can write, by its opcode: every command writes so (`exec_writes`). -/
inductive CommandWrites (i : Instr) (s : State) : State → Prop
  | nothing (hi : i.opcode = .nop) : CommandWrites i s s
  | product (hi : i.opcode = .mul) (x : Vec1152) : CommandWrites i s (s.setProd x)
  | vector (r : VReg) (hi : VectorDestination r i) (x : Vec576) : CommandWrites i s (s.writeV r x)
  | generator (hi : i.opcode ∈ [.toranlux, .seed]) (p : Vec576 × BitVec 1) (o : BitVec 10) :
    CommandWrites i s ((s.loadGenerator p o).setReady true)
  | readyOnly (hi : i.opcode = .restore) : CommandWrites i s (s.setReady true)
  | moves (hi : i.opcode ∈ [.advance, .skip]) (p : Vec576 × BitVec 1) (o : BitVec 10) :
    CommandWrites i s (s.loadGenerator p o)
  | word (hi : i.opcode ∈ [.next, .nextdbl]) (p : Vec576 × BitVec 1) (o : BitVec 10) (x : Limb) :
    CommandWrites i s ((s.loadGenerator p o).setRes x)
  | notReady (hi : i.opcode.needsReady = true) (hs : s.ready = false) (e : Bool) (c : BitVec 8) (info : BitVec 32) :
    CommandWrites i s (s.setError e c info)

theorem requireReady_writes {i : Instr} {run : State → State} {s t : State} (hi : i.opcode.needsReady = true)
    (hrun : CommandWrites i s (run s)) (h : requireReady i run s = .next t) : CommandWrites i s t := by
  obtain ⟨-, hr⟩ | ⟨hs, hr⟩ := requireReady_cases i run s <;> rw [hr] at h <;> cases h
  · exact hrun
  · obtain ⟨-, he⟩ | ⟨-, he⟩ := raiseError_cases .notReady (commandInfo i) s <;> rw [he]
    · exact .notReady hi hs s.err s.errCode s.errInfo
    · exact .notReady hi hs ..

theorem takeWord_writes {i : Instr} (hi : i.opcode ∈ [.next, .nextdbl]) (f : BitVec Config.wordBits → Limb) (s : State) :
    CommandWrites i s (takeWord f s) := by
  obtain ⟨p, o, x, h⟩ := onlyGenerates_takeWord f s
  rw [h]
  exact .word hi p o x

theorem skipWords_writes (n : Nat) (s : State) : CommandWrites .skip s (skipWords n s) := by
  unfold skipWords
  split
  · exact .moves (by decide) (s.state, s.carry) _
  · exact .moves (by decide) _ _

theorem exec_writes {i : Instr} {s t : State} (h : exec i s = .next t) : CommandWrites i s t := by
  cases i with
  | nop => cases h; exact .nothing rfl
  | mul ra rb => cases h; exact .product rfl _
  | red rd | mulmod rd ra rb | powmod rd ra | lda rd | mov rd ra | tolcg rd =>
    cases h
    exact .vector rd (by simp [VectorDestination]) _
  | toranlux ra => cases h; exact .generator (by simp [Instr.opcode]) _ _
  | seed => cases h; exact .generator (by decide) _ _
  | advance => exact requireReady_writes rfl (.moves (by decide) _ _) h
  | next => exact requireReady_writes rfl (takeWord_writes (by decide) _ s) h
  | skip => exact requireReady_writes rfl (skipWords_writes _ s) h
  | nextdbl => exact requireReady_writes rfl (takeWord_writes (by decide) _ s) h
  | restore => cases h; exact .readyOnly rfl

theorem exec_prod {i : Instr} {s t : State} (h : exec i s = .next t) (hi : i.opcode ≠ .mul) : t.prod = s.prod := by
  cases exec_writes h with
  | product hmul => exact absurd hmul hi
  | nothing | vector | generator | readyOnly | moves | word | notReady => rfl

theorem exec_res {i : Instr} {s t : State} (h : exec i s = .next t) (hi : i.opcode ∉ [.next, .nextdbl]) :
    t.res = s.res := by
  cases exec_writes h with
  | word hword => exact absurd hword hi
  | nothing | product | vector | generator | readyOnly | moves | notReady => rfl

theorem exec_vreg {i : Instr} {s t : State} (h : exec i s = .next t) {r : VReg} (hr : ¬ VectorDestination r i) :
    t.readV r = s.readV r := by
  cases exec_writes h with
  | vector r' hdest x => exact s.readV_writeV_ne r' r x (by rintro rfl; exact hr hdest)
  | nothing | product | generator | readyOnly | moves | word | notReady => rfl

theorem exec_triple {i : Instr} {s t : State} (h : exec i s = .next t)
    (hi : i.opcode ∉ [.toranlux, .seed, .advance, .next, .skip, .nextdbl]) : triple t = triple s := by
  cases exec_writes h with
  | generator hgen | moves hgen | word hgen => simp_all
  | nothing | product | vector | readyOnly | notReady => rfl

theorem exec_sets_ready {i : Instr} {s t : State} (h : exec i s = .next t)
    (hi : i.opcode ∈ [.toranlux, .seed, .restore]) : t.ready = true := by
  cases i with
  | toranlux | seed | restore => cases h; rfl
  | nop | mul | red | mulmod | powmod | lda | mov | tolcg | advance | next | skip | nextdbl =>
    simp [Instr.opcode] at hi

theorem exec_errorRecord {i : Instr} {s t : State} (h : exec i s = .next t)
    (hready : i.opcode.needsReady = true → s.ready = true) :
    t.err = s.err ∧ t.errCode = s.errCode ∧ t.errInfo = s.errInfo := by
  cases exec_writes h with
  | notReady hi hs => cases hs.symm.trans (hready hi)
  | nothing | product | vector | generator | readyOnly | moves | word => exact ⟨rfl, rfl, rfl⟩

/-- Settles O11, register by register. -/
theorem commandsWriteOnlyTheirDestinations : Obligations.CommandsWriteOnlyTheirDestinations := by
  intro i s t h
  refine ⟨exec_arg h, exec_prod h, fun hnext hdbl => exec_res h (by simp [hnext, hdbl]),
    fun r hred hmulmod hpowmod hlda hmov htolcg => exec_vreg h ?_, exec_triple h, fun hi => ?_, exec_sets_ready h,
    exec_errorRecord h⟩
  · rintro (rfl | ⟨ra, rb, rfl⟩ | ⟨ra, rfl⟩ | rfl | ⟨ra, rfl⟩ | rfl)
    · exact hred rfl
    · exact hmulmod ra rb rfl
    · exact hpowmod ra rfl
    · exact hlda rfl
    · exact hmov ra rfl
    · exact htolcg rfl
  · exact (exec_ready h).resolve_right fun ⟨_, hset⟩ => hi (by simp_all [or_left_comm])

end Sys2Proof.Machine
end

section
/-! PROOFS of the statements on the transactions of `LDV` and `LOAD` (30_encoding.md R123): a run of writes that store is a fold over the registers, and all limbs of a register make up its value. -/

namespace Sys2Proof.Machine

/-! ### Runs of stored writes (30_encoding.md R122, R123) -/

theorem run_succ_of_next {M : Host.Core} {s t : M.State} (h : M.step s = .next t) (k : Nat) :
    M.run (k + 1) s = M.run k t := by
  rw [Host.Core.run, h]

theorem run_succ_of_step {s t : State} (h : step s = .next t) (k : Nat) :
    Host.Core.run core (k + 1) s = Host.Core.run core k t := run_succ_of_next (M := core) h k

/-- A step does not look at the latest response, so a run may as well start with none. -/
theorem run_takeEvent_cons (k : Nat) (e : BusEvent) (es : List BusEvent) (s : State) :
    Host.Core.run core (k + 1) (takeEvent (e :: es) s) = Host.Core.run core (k + 1) (s.setPending (e :: es)) := rfl

/-- The state after writes `ws` to registers, in order. -/
def writeRegs (ws : List (WinReg × Limb)) (s : State) : State := ws.foldl (fun t p => writeReg p.1 p.2 t) s

/-- A write that stores touches neither the pending events nor the response. -/
theorem writeReg_takeEvent {r : WinReg} {v : Limb} (h : Stores r v) (rest : List BusEvent) (s : State) :
    writeReg r v (takeEvent rest s) = takeEvent rest (writeReg r v s) := by
  obtain rfl | ⟨rfl, hv⟩ | ⟨rfl, hv⟩ | ⟨i, rfl⟩ | ⟨i, rfl⟩ | ⟨q, i, rfl⟩ := h.register
  · rfl
  · rw [writeReg, writeReg, writeOffset_of_legal hv, writeOffset_of_legal hv]
    rfl
  · rw [writeReg, writeReg, writeCarry_of_legal hv, writeCarry_of_legal hv]
    rfl
  · rfl
  · rfl
  · rfl

theorem step_wr_of_stores {r : WinReg} {v : Limb} (h : Stores r v) (rest : List BusEvent) (s : State) :
    step (takeEvent (wr r v :: rest) s) = .next (takeEvent rest (writeReg r v s)) := by
  have hcmd : r ≠ .cmd := by rintro rfl; simpa using h.register
  rw [← writeReg_takeEvent h]
  exact step_write_register hcmd v rest s

theorem run_writeRegs (ws : List (WinReg × Limb)) (h : ∀ p ∈ ws, Stores p.1 p.2) (k : Nat) (rest : List BusEvent)
    (s : State) :
    Host.Core.run core (k + ws.length) (takeEvent (ws.map (fun p => wr p.1 p.2) ++ rest) s) =
      Host.Core.run core k (takeEvent rest (writeRegs ws s)) := by
  induction ws generalizing s with
  | nil => rfl
  | cons p ws ih =>
    rw [List.length_cons, ← Nat.add_assoc, List.map_cons, List.cons_append,
      run_succ_of_step (step_wr_of_stores (h p List.mem_cons_self) _ s), ih (fun q hq => h q (List.mem_cons_of_mem p hq))]
    rfl

/-! ### All limbs of a register (00_scope.md R17, 20_memory.md R81) -/

theorem eq_of_limbs {w n : Nat} (hw : w ≤ 64 * n) {x y : BitVec w} (h : ∀ i < n, limb x i = limb y i) : x = y := by
  apply BitVec.eq_of_getLsbD_eq
  intro k hk
  have hbit := congrArg (·.getLsbD (k % 64)) (h (k / 64) (by omega))
  simp only [limb, BitVec.getLsbD_extractLsb', Nat.div_add_mod, Nat.mod_lt k (by decide : 64 > 0), decide_true,
    Bool.true_and] at hbit
  exact hbit

/-- `y` with the limbs `is` of `x` written into it, in order. -/
def copyLimbs {w n : Nat} (x : BitVec w) (is : List (Fin n)) (y : BitVec w) : BitVec w :=
  is.foldl (fun z i => setLimb z i.val (limb x i.val)) y

theorem limb_copyLimbs {w n : Nat} (hw : 64 * n ≤ w) (x y : BitVec w) (is : List (Fin n)) (j : Fin n) :
    limb (copyLimbs x is y) j.val = if j ∈ is then limb x j.val else limb y j.val := by
  induction is generalizing y with
  | nil => rfl
  | cons i is ih =>
    have hi : 64 * i.val + 64 ≤ w := by omega
    refine (ih (setLimb y i.val (limb x i.val))).trans ?_
    by_cases hj : j = i
    · subst hj
      rw [limb_setLimb_same _ _ _ hi, ite_self, if_pos List.mem_cons_self]
    · rw [limb_setLimb_ne _ _ _ _ hi (fun e => hj (Fin.ext e.symm))]
      simp only [List.mem_cons, hj, false_or]

theorem copyLimbs_finRange {w n : Nat} (hw : w = 64 * n) (x y : BitVec w) : copyLimbs x (List.finRange n) y = x :=
  eq_of_limbs hw.le fun i hi => by
    rw [limb_copyLimbs hw.ge x y (List.finRange n) ⟨i, hi⟩, if_pos (List.mem_finRange _)]

/-- The writes of `x` to the limbs of a register (30_encoding.md R123). -/
def limbWrites {w n : Nat} (reg : Fin n → WinReg) (x : BitVec w) : List (WinReg × Limb) :=
  (List.finRange n).map fun i => (reg i, limb x i.val)

theorem wrLimbs_eq_map {w n : Nat} (reg : Fin n → WinReg) (x : BitVec w) :
    wrLimbs reg x = (limbWrites reg x).map fun p => wr p.1 p.2 := by
  rw [limbWrites, List.map_map]
  rfl

theorem stores_limbWrites {w n : Nat} {reg : Fin n → WinReg} (hreg : ∀ i, (reg i).access = .readWrite) (x : BitVec w) :
    ∀ p ∈ limbWrites reg x, Stores p.1 p.2 := by
  intro p hp
  obtain ⟨i, -, rfl⟩ := List.mem_map.mp hp
  exact .inl (hreg i)

/-- Writing all limbs of `x` to a register puts `x` into it; `put y` is the state with `y` in the register. -/
theorem writeRegs_limbWrites {w n : Nat} (hw : w = 64 * n) (reg : Fin n → WinReg) (put : BitVec w → State)
    (hput : ∀ i v y, writeReg (reg i) v (put y) = put (setLimb y i.val v)) (x y : BitVec w) :
    writeRegs (limbWrites reg x) (put y) = put x := by
  have fold (is : List (Fin n)) (y : BitVec w) :
      writeRegs (is.map fun i => (reg i, limb x i.val)) (put y) = put (copyLimbs x is y) := by
    induction is generalizing y with
    | nil => rfl
    | cons i is ih => exact (congrArg (writeRegs _) (hput i _ y)).trans (ih _)
  rw [limbWrites, fold, copyLimbs_finRange hw]

theorem State.writeV_readV (s : State) (r : VReg) : s.writeV r (s.readV r) = s := by
  simp [State.writeV, State.readV]

theorem State.writeV_writeV (s : State) (r : VReg) (x y : Vec576) : (s.writeV r x).writeV r y = s.writeV r y := by
  simp [State.writeV]

theorem writeRegs_v (r : VReg) (x : Vec576) (s : State) : writeRegs (limbWrites (.v r) x) s = s.writeV r x := by
  have hput (i : Fin 9) (v : Limb) (y : Vec576) :
      writeReg (.v r i) v (s.writeV r y) = s.writeV r (setLimb y i.val v) := by
    rw [writeReg, State.readV_writeV_same, State.writeV_writeV]
  have h := writeRegs_limbWrites (n := 9) rfl (.v r) (s.writeV r) hput x (s.readV r)
  rwa [State.writeV_readV] at h

theorem writeRegs_state (x : Vec576) (s : State) : writeRegs (limbWrites .state x) s = s.setState x :=
  writeRegs_limbWrites (n := 9) rfl .state s.setState (fun _ _ _ => rfl) x s.state

/-- Settles O50: nine limb writes that store, as one write of the register. -/
theorem ldvLoadsTheWholeRegister : Obligations.LdvLoadsTheWholeRegister := by
  intro s rest r x
  have hrun := run_writeRegs (limbWrites (.v r) x) (stores_limbWrites (fun _ => rfl) x) 0 rest s
  rw [writeRegs_v, ← wrLimbs_eq_map] at hrun
  exact (run_takeEvent_cons 8 _ _ s).symm.trans hrun

/-! ### `LOAD` (30_encoding.md R123, 10_state.md R46) -/

theorem step_cmd_restore (rest : List BusEvent) {s : State} (herr : s.err = false) :
    step (takeEvent (cmd .restore :: rest) s) = .next (takeEvent rest (s.setReady true)) :=
  step_commandEvent (s := s) (i := .restore) herr rfl rest

/-- The register writes of `LOAD`, all of its transactions but the last. -/
def tripleWrites (x : Vec576) (c : BitVec 1) (o : BitVec 10) : List (WinReg × Limb) :=
  limbWrites .state x ++ [(.carry, c.setWidth 64), (.offset, o.setWidth 64)]

theorem expand_load (x : Vec576) (c : BitVec 1) (o : BitVec 10) (rest : List BusEvent) :
    (Pseudo.load x (c.setWidth 64) (o.setWidth 64)).expand ++ rest =
      (tripleWrites x c o).map (fun p => wr p.1 p.2) ++ cmd .restore :: rest := by
  rw [Pseudo.expand, wrLimbs_eq_map, tripleWrites, List.map_append, List.append_assoc, List.append_assoc]
  rfl

section
variable {x : Vec576} {c : BitVec 1} {o : BitVec 10}

theorem carry_toNat_le_one (c : BitVec 1) : (c.setWidth 64).toNat ≤ 1 := by
  rw [toNat_setWidth_limb c (by decide)]
  exact Nat.le_of_lt_succ c.isLt

theorem offset_legal (hmod : o.toNat % 48 = 0) (hle : o.toNat ≤ 576) :
    (o.setWidth 64).toNat % 48 = 0 ∧ (o.setWidth 64).toNat ≤ 576 := by
  rw [toNat_setWidth_limb o (by decide)]
  exact ⟨hmod, hle⟩

theorem stores_tripleWrites (hmod : o.toNat % 48 = 0) (hle : o.toNat ≤ 576) :
    ∀ p ∈ tripleWrites x c o, Stores p.1 p.2 := by
  intro p hp
  obtain hp | hp := List.mem_append.mp hp
  · exact stores_limbWrites (fun _ => rfl) x p hp
  · obtain rfl | rfl : p = _ ∨ p = _ := by simpa using hp
    · exact .inr (.inr ⟨rfl, carry_toNat_le_one c⟩)
    · exact .inr (.inl ⟨rfl, offset_legal hmod hle⟩)

theorem writeRegs_tripleWrites (hmod : o.toNat % 48 = 0) (hle : o.toNat ≤ 576) (s : State) :
    writeRegs (tripleWrites x c o) s = s.loadGenerator (x, c) o := by
  have hcarry (t : State) : writeReg .carry (c.setWidth 64) t = t.setCarry c := by
    rw [writeReg, writeCarry_of_legal (carry_toNat_le_one c), setWidth_setWidth_limb c (by decide)]
  have hoffset (t : State) : writeReg .offset (o.setWidth 64) t = t.setOffset o := by
    rw [writeReg, writeOffset_of_legal (offset_legal hmod hle), setWidth_setWidth_limb o (by decide)]
  calc writeRegs (tripleWrites x c o) s
      = writeReg .offset (o.setWidth 64) (writeReg .carry (c.setWidth 64) (writeRegs (limbWrites .state x) s)) :=
        List.foldl_append
    _ = s.loadGenerator (x, c) o := by rw [hoffset, hcarry, writeRegs_state, State.loadGenerator]

end

/-- Settles O51: eleven writes that store the triple, then `RESTORE`. -/
theorem loadRestoresTheTriple : Obligations.LoadRestoresTheTriple := by
  intro s rest x c o herr hmod hle
  have hrun := run_writeRegs (tripleWrites x c o) (stores_tripleWrites hmod hle) 1 (cmd .restore :: rest) s
  rw [writeRegs_tripleWrites hmod hle, ← expand_load,
    run_succ_of_step (step_cmd_restore rest (s := s.loadGenerator (x, c) o) herr)] at hrun
  exact (run_takeEvent_cons 11 _ _ s).symm.trans hrun

end Sys2Proof.Machine
end

section
/-! PROOFS of the statements on the arithmetic kernel and its commands (40_arith.md): the fold loop as iterated passes, the power loop as a chain of rounds, and the whole effect of each command. -/

namespace Sys2Proof

/-- The word of a command matches its own row of the table (30_encoding.md R115). -/
theorem encode_and_maskWord (i : Instr) : encode i &&& i.opcode.maskWord = i.opcode.matchWord := by
  rw [and_maskWord_eq_matchWord_iff, ← wellFormed_split_iff, ← CommandFields.split_opc, encode, CommandFields.split_pack]
  cases i <;> exact ⟨rfl, rfl⟩

end Sys2Proof

namespace Sys2Proof.Machine

set_option exponentiation.threshold 1200

/-! ### The fold loop as iterated passes (40_arith.md R142, R143) -/

/-- Where the loop ends, it has made at most `fuel` passes, each from a value that called for one. -/
theorem foldLoop_eq_iterate (fuel x : Nat) :
    ∃ k ≤ fuel, foldLoop fuel x = foldPass^[k] x ∧ ∀ j < k, 2 ^ 576 ≤ foldPass^[j] x := by
  induction fuel generalizing x with
  | zero => exact ⟨0, Nat.le_refl 0, rfl, fun j hj => absurd hj (Nat.not_lt_zero j)⟩
  | succ fuel ih =>
    by_cases hx : 2 ^ 576 ≤ x
    · obtain ⟨k, hk, hend, hpasses⟩ := ih (foldPass x)
      refine ⟨k + 1, Nat.succ_le_succ hk, by rw [foldLoop, if_pos hx, hend, Function.iterate_succ_apply], fun j hj => ?_⟩
      cases j with
      | zero => exact hx
      | succ j => exact hpasses j (Nat.lt_of_succ_lt_succ hj)
    · exact ⟨0, Nat.zero_le _, foldLoop_of_lt _ (Nat.not_le.mp hx), fun j hj => absurd hj (Nat.not_lt_zero j)⟩

theorem foldsTo_foldLoop {x : Nat} (hx : x < 2 ^ 1152) : FoldsTo x (foldLoop 3 x) := by
  have hpass : (fun z => z % 2 ^ 576 + (2 ^ 240 - 1) * (z / 2 ^ 576)) = foldPass :=
    funext fun z => (foldPass_eq z).symm
  obtain ⟨k, hk, hend, hpasses⟩ := foldLoop_eq_iterate 3 x
  rw [FoldsTo, hpass]
  exact ⟨k, hk, hend, foldLoop_three_lt hx, hpasses⟩

theorem foldsTo_reduce (x : Vec1152) : FoldsTo x.toNat (reduce x).toNat :=
  reduce_toNat x ▸ foldsTo_foldLoop x.isLt

theorem foldPass_mod (y : Nat) : foldPass y % Config.modulus = y % Config.modulus := by
  conv_rhs => rw [← foldPass_add y, Nat.add_mul_mod_self_left]

theorem foldLoop_mod (fuel x : Nat) : foldLoop fuel x % Config.modulus = x % Config.modulus := by
  induction fuel generalizing x with
  | zero => rfl
  | succ fuel ih => rw [foldLoop_succ, ih, foldPass_mod]

theorem reduce_mod (x : Vec1152) : (reduce x).toNat % Config.modulus = x.toNat % Config.modulus := by
  rw [reduce_toNat, foldLoop_mod]

theorem reduce_of_lt {x : Vec1152} (h : x.toNat < 2 ^ 576) : (reduce x).toNat = x.toNat := by
  rw [reduce_toNat, foldLoop_of_lt 3 h]

theorem reduce_ofNat_of_lt {n : Nat} (h : n < 2 ^ 576) : reduce (BitVec.ofNat 1152 n) = BitVec.ofNat 576 n := by
  have hn : (BitVec.ofNat 1152 n).toNat = n :=
    (BitVec.toNat_ofNat ..).trans (Nat.mod_eq_of_lt (h.trans (by decide +kernel)))
  apply BitVec.eq_of_toNat_eq
  rw [reduce_of_lt (hn.trans_lt h), hn, BitVec.toNat_ofNat, Nat.mod_eq_of_lt h]

/-! #### How far each pass brings a value down (40_arith.md R143 item 4) -/

theorem foldPass_first_le {x : Nat} (h : x < 2 ^ 1152) : foldPass x ≤ (2 ^ 576 - 1) * 2 ^ 240 := by
  rw [foldPass_eq]; omega

theorem foldPass_second_lt {y : Nat} (h : y ≤ (2 ^ 576 - 1) * 2 ^ 240) : foldPass y < 2 ^ 576 + 2 ^ 480 := by
  rw [foldPass_eq]; omega

theorem foldPass_third_lt {y : Nat} (h : y < 2 ^ 576 + 2 ^ 480) (hy : 2 ^ 576 ≤ y) :
    y % 2 ^ 576 < 2 ^ 480 ∧ foldPass y < 2 ^ 480 + 2 ^ 240 := by
  rw [foldPass_eq]; omega

/-- A 576-bit value is its residue or its residue plus `m`, and the second only for residues below `2^240 − 1`:
`2^576 = m + 2^240 − 1` leaves no room for more (40_arith.md R143 item 5). -/
theorem modulus_le_iff {y : Nat} (h : y < 2 ^ 576) :
    (Config.modulus ≤ y ↔ y = y % Config.modulus + Config.modulus) ∧
      (Config.modulus ≤ y → y % Config.modulus < 2 ^ 240 - 1) := by
  unfold Config.modulus
  omega

/-- `(m − 1)^2` is congruent to 1, yet its representative is `m + 1` (40_arith.md R143 item 5). -/
theorem reduce_square_modulus_sub_one :
    reduce (BitVec.ofNat 1152 ((Config.modulus - 1) ^ 2)) = BitVec.ofNat 576 (Config.modulus + 1) := by
  decide +kernel

/-- Settles O12: the loop is followed pass by pass, the examples below `2^576` take none, and the other two are evaluated. -/
theorem reduceProperties : Obligations.ReduceProperties := by
  refine ⟨fun x => ?_, reduce_ofNat_of_lt (by decide +kernel), reduce_ofNat_of_lt (by decide +kernel),
    reduce_square_modulus_sub_one, by decide +kernel⟩
  have hlt := foldLoop_three_lt x.isLt
  have first := foldPass_first_le x.isLt
  have second := foldPass_second_lt first
  have representative := modulus_le_iff (reduce x).isLt
  rw [reduce_mod] at representative
  refine ⟨hlt, reduce_toNat x, reduce_mod x, reduce_of_lt, foldsTo_reduce x, ⟨first, ?_, second, ?_,
    foldPass_third_lt second⟩, representative⟩
  · rw [Nat.shiftRight_eq_div_pow]; omega
  · rw [Nat.shiftRight_eq_div_pow]; omega

/-! ### `MulMod` (40_arith.md R144) -/

theorem foldsTo_mulMod (a b : Vec576) : FoldsTo (a.toNat * b.toNat) (mulMod a b).toNat :=
  multiply_toNat a b ▸ foldsTo_reduce (multiply a b)

theorem mulMod_mod (a b : Vec576) : (mulMod a b).toNat % Config.modulus = a.toNat * b.toNat % Config.modulus := by
  rw [mulMod, reduce_mod, multiply_toNat]

theorem mulMod_of_lt {a b : Vec576} (h : a.toNat * b.toNat < 2 ^ 576) : (mulMod a b).toNat = a.toNat * b.toNat := by
  rw [mulMod, reduce_of_lt (by rwa [multiply_toNat]), multiply_toNat]

/-! ### `PowerMod` as a chain of rounds (40_arith.md R145) -/

/-- One round: square, and on a set bit multiply by the base. -/
def powerRound (b : Vec576) (bit : Bool) (r : Vec576) : Vec576 :=
  if bit then mulMod (mulMod r r) b else mulMod r r

theorem powerRound_foldsTo (b : Vec576) (bit : Bool) (r : Vec576) :
    ∃ sq, FoldsTo (r.toNat * r.toNat) sq ∧
      if bit then FoldsTo (sq * b.toNat) (powerRound b bit r).toNat else (powerRound b bit r).toNat = sq := by
  refine ⟨(mulMod r r).toNat, foldsTo_mulMod r r, ?_⟩
  cases bit with
  | false => rfl
  | true => exact foldsTo_mulMod (mulMod r r) b

/-- A round takes the residue of a power to that of the power with one exponent bit more. -/
theorem powerRound_mod {b r : Vec576} {q : Nat}
    (h : r.toNat % Config.modulus = b.toNat ^ q % Config.modulus) (bit : Bool) :
    (powerRound b bit r).toNat % Config.modulus = b.toNat ^ (2 * q + bit.toNat) % Config.modulus := by
  have square : (mulMod r r).toNat % Config.modulus = b.toNat ^ (2 * q) % Config.modulus := by
    rw [mulMod_mod, Nat.two_mul, Nat.pow_add]
    exact Nat.ModEq.mul h h
  cases bit with
  | false => exact square
  | true =>
    have product := (mulMod_mod (mulMod r r) b).trans (Nat.ModEq.mul_right b.toNat square)
    rwa [← Nat.pow_succ] at product

/-- A power bounds those of smaller exponents but for `0^0 = 1`. -/
theorem pow_lt_of_le {b n e : Nat} (hne : n ≤ e) (h : b ^ e < 2 ^ 576) : b ^ n < 2 ^ 576 := by
  obtain rfl | hb := Nat.eq_zero_or_pos b
  · exact (zero_pow_le_one n).trans_lt (by decide +kernel)
  · exact (Nat.pow_le_pow_right hb hne).trans_lt h

/-- A round is exact while the power fits: no pass runs. -/
theorem powerRound_of_lt {b r : Vec576} {q : Nat} (h : r.toNat = b.toNat ^ q) {bit : Bool}
    (hfit : b.toNat ^ (2 * q + bit.toNat) < 2 ^ 576) :
    (powerRound b bit r).toNat = b.toNat ^ (2 * q + bit.toNat) := by
  have product : r.toNat * r.toNat = b.toNat ^ (2 * q) := by rw [h, Nat.two_mul, Nat.pow_add]
  have square : (mulMod r r).toNat = b.toNat ^ (2 * q) :=
    (mulMod_of_lt (product ▸ pow_lt_of_le (Nat.le_add_right ..) hfit)).trans product
  cases bit with
  | false => exact square
  | true =>
    have step : (mulMod r r).toNat * b.toNat = b.toNat ^ (2 * q + 1) := by rw [square, Nat.pow_succ]
    exact (mulMod_of_lt (step ▸ hfit)).trans step

/-- The value before round `i`, from 1; round `i` uses bit `63 − i` of the exponent. -/
def powerChain (b : Vec576) (e : Limb) : Nat → Vec576
  | 0 => 1
  | i + 1 => powerRound b (e.getLsbD (63 - i)) (powerChain b e i)

theorem powerLoop_powerChain (b : Vec576) (e : Limb) {n i : Nat} (h : i + n = 64) :
    powerLoop b e n (powerChain b e i) = powerChain b e 64 := by
  induction n generalizing i with
  | zero => rw [powerLoop, ← h, Nat.add_zero]
  | succ n ih =>
    have hbit : n = 63 - i := by omega
    rw [powerLoop_succ, ← ih (i := i + 1) (by omega), powerChain, powerRound, hbit]

theorem powerMod_eq_powerChain (b : Vec576) (e : Limb) : powerMod b e = powerChain b e 64 := by
  rw [powerMod]
  exact powerLoop_powerChain b e (Nat.zero_add 64)

theorem getLsbD_eq_true_iff (e : Limb) (n : Nat) : e.getLsbD n = true ↔ e.toNat / 2 ^ n % 2 = 1 := by
  rw [BitVec.getLsbD, Nat.testBit_eq_decide_div_mod_eq, decide_eq_true_iff]

/-- The exponent's upper bits with one bit more. -/
theorem div_two_pow_eq (e : Limb) (n : Nat) :
    e.toNat / 2 ^ n = 2 * (e.toNat / 2 ^ (n + 1)) + (e.getLsbD n).toNat := by
  have hbit : (e.getLsbD n).toNat = e.toNat / 2 ^ n % 2 := by
    rw [BitVec.getLsbD, Nat.toNat_testBit]
  rw [hbit, Nat.pow_succ, ← Nat.div_div_eq_div_mul]
  omega

theorem powerMod_powersTo (b : Vec576) (e : Limb) : PowersTo b.toNat e.toNat (powerMod b e).toNat := by
  refine ⟨fun i => (powerChain b e i).toNat, rfl, by rw [powerMod_eq_powerChain], fun i _ => ?_⟩
  simp only [← getLsbD_eq_true_iff]
  exact powerRound_foldsTo b (e.getLsbD (63 - i)) (powerChain b e i)

/-- The exponent bits used up before round `i + 1` are those before round `i` and bit `63 − i`. -/
theorem div_two_pow_round (e : Limb) {i : Nat} (h : i < 64) :
    e.toNat / 2 ^ (64 - (i + 1)) = 2 * (e.toNat / 2 ^ (64 - i)) + (e.getLsbD (63 - i)).toNat := by
  have hi : 64 - i = 63 - i + 1 := by omega
  rw [Nat.sub_add_eq, Nat.sub_right_comm, hi]
  exact div_two_pow_eq e (63 - i)

theorem div_two_pow_64 (e : Limb) : e.toNat / 2 ^ 64 = 0 := Nat.div_eq_of_lt e.isLt

/-- Before round `i` the chain stands at the residue of the power whose exponent is the first `i` bits. -/
theorem powerChain_mod (b : Vec576) (e : Limb) {i : Nat} (h : i ≤ 64) :
    (powerChain b e i).toNat % Config.modulus = b.toNat ^ (e.toNat / 2 ^ (64 - i)) % Config.modulus := by
  induction i with
  | zero => rw [Nat.sub_zero, div_two_pow_64, Nat.pow_zero]; rfl
  | succ i ih =>
    rw [div_two_pow_round e h]
    exact powerRound_mod (ih (Nat.le_of_succ_le h)) _

/-- Where the whole power fits, so does every one on the way, and the chain is exact. -/
theorem powerChain_of_lt {b : Vec576} {e : Limb} (hfit : b.toNat ^ e.toNat < 2 ^ 576) {i : Nat} (h : i ≤ 64) :
    (powerChain b e i).toNat = b.toNat ^ (e.toNat / 2 ^ (64 - i)) := by
  induction i with
  | zero => rw [Nat.sub_zero, div_two_pow_64, Nat.pow_zero]; rfl
  | succ i ih =>
    have hnext := pow_lt_of_le (Nat.div_le_self e.toNat (2 ^ (64 - (i + 1)))) hfit
    rw [div_two_pow_round e h] at hnext ⊢
    exact powerRound_of_lt (ih (Nat.le_of_succ_le h)) hnext

theorem powerMod_mod (b : Vec576) (e : Limb) :
    (powerMod b e).toNat % Config.modulus = b.toNat ^ e.toNat % Config.modulus := by
  rw [powerMod_eq_powerChain, powerChain_mod b e (Nat.le_refl 64), Nat.sub_self, Nat.pow_zero, Nat.div_one]

theorem powerMod_of_lt {b : Vec576} {e : Limb} (h : b.toNat ^ e.toNat < 2 ^ 576) :
    (powerMod b e).toNat = b.toNat ^ e.toNat := by
  rw [powerMod_eq_powerChain, powerChain_of_lt h (Nat.le_refl 64), Nat.sub_self, Nat.pow_zero, Nat.div_one]

theorem powerMod_zero (b : Vec576) : powerMod b 0 = 1 :=
  BitVec.eq_of_toNat_eq (powerMod_of_lt (e := 0) (Nat.one_lt_two_pow (by decide)))

theorem powerMod_one (b : Vec576) : powerMod b 1 = b := by
  have hpow : b.toNat ^ (1 : Limb).toNat = b.toNat := Nat.pow_one _
  have hfit : b.toNat ^ (1 : Limb).toNat < 2 ^ 576 := hpow.trans_lt b.isLt
  exact BitVec.eq_of_toNat_eq ((powerMod_of_lt hfit).trans hpow)

/-! ### The commands (40_arith.md R146 to R152) -/

/-- Settles O17: the value is `Reduce` of `PROD`. -/
theorem redWritesTheFoldedProduct : Obligations.RedWritesTheFoldedProduct := fun rd s =>
  ⟨encode_and_maskWord (.red rd), reduce s.prod, foldsTo_reduce s.prod, rfl⟩

/-- Settles O18: the value is `MulMod` of the sources. -/
theorem mulmodWritesTheFoldedProduct : Obligations.MulmodWritesTheFoldedProduct := fun rd ra rb s =>
  ⟨encode_and_maskWord (.mulmod rd ra rb), mulMod (s.readV ra) (s.readV rb),
    foldsTo_mulMod (s.readV ra) (s.readV rb), rfl⟩

/-- Settles O19: the value is `PowerMod` of the source and `ARG`, whose properties are those of the chain of rounds. -/
theorem powmodWritesThePower : Obligations.PowmodWritesThePower := by
  intro rd ra s
  refine ⟨encode_and_maskWord (.powmod rd ra), powerMod s.vreg[ra.val] s.arg, rfl, powerMod_powersTo .., powerMod_mod ..,
    fun harg => ?_, fun harg => ?_, powerMod_of_lt, rfl⟩
  · rw [harg, powerMod_zero]
  · rw [harg, powerMod_one]

/-- `A` is the value its formula gives (10_state.md R40). -/
theorem kA_eq_ofNat : Config.kA = BitVec.ofNat 576 (legacyMultiplier ^ 2048 % Config.modulus) := by
  rw [← kA_eq_legacyMultiplier_pow, BitVec.ofNat_toNat, BitVec.setWidth_eq]

/-- Settles O15: three copies, of nothing, of `A` and of the source. -/
theorem nopLdaMovEffects : Obligations.NopLdaMovEffects :=
  ⟨⟨rfl, fun _ => rfl⟩,
    fun rd s => ⟨encode_and_maskWord (.lda rd), congrArg (fun a => Host.Outcome.next (s.writeV rd a)) kA_eq_ofNat⟩,
    fun rd ra _ => ⟨encode_and_maskWord (.mov rd ra), rfl⟩⟩

/-- Settles O16: the value is `Multiply` of the sources, which is exact. -/
theorem mulWritesTheExactProduct : Obligations.MulWritesTheExactProduct := fun ra rb s =>
  ⟨encode_and_maskWord (.mul ra rb), multiply (s.readV ra) (s.readV rb), multiply_toNat (s.readV ra) (s.readV rb), rfl⟩

end Sys2Proof.Machine
end

section
/-! PROOFS of the statements on the codec (41_codec.md): `Canon`, `ToLCG` and `ToRANLUX` as integers on every value, the laws between the conversions, and the two commands. -/

set_option exponentiation.threshold 1200

namespace Sys2Proof.Machine

/-! ### `Canon` (41_codec.md R202) -/

theorem two_pow_lt_two_mul_modulus : 2 ^ 576 < 2 * Config.modulus := by decide +kernel

theorem canon_toNat_eq_ite (x : Vec576) :
    (canon x).toNat = if Config.modulus ≤ x.toNat then x.toNat - Config.modulus else x.toNat := by
  rw [canon]
  split
  · exact (BitVec.toNat_ofNat ..).trans (Nat.mod_eq_of_lt ((Nat.sub_le ..).trans_lt x.isLt))
  · rfl

/-- One subtraction is enough, because `x < 2^576 < 2m`. -/
theorem canon_toNat (x : Vec576) : (canon x).toNat = x.toNat % Config.modulus := by
  have hx : x.toNat < 2 * Config.modulus := x.isLt.trans two_pow_lt_two_mul_modulus
  rw [canon_toNat_eq_ite]
  split
  next hle => rw [Nat.mod_eq_sub_mod hle, Nat.mod_eq_of_lt (by omega)]
  next hlt => rw [Nat.mod_eq_of_lt (Nat.not_le.mp hlt)]

theorem canon_of_lt {x : Vec576} (h : x.toNat < Config.modulus) : canon x = x :=
  BitVec.eq_of_toNat_eq ((canon_toNat x).trans (Nat.mod_eq_of_lt h))

/-- Settles O21: a 576-bit value is below `2m`. -/
theorem canonIsTheResidue : Obligations.CanonIsTheResidue :=
  ⟨two_pow_lt_two_mul_modulus, fun x => ⟨canon_toNat x, canon_toNat_eq_ite x⟩⟩

/-! ### `ToLCG` (41_codec.md R200, R201) -/

/-- R201 item 2 on integers: the bound, and the one pair that meets it. -/
theorem lcg_le_modulus {x c : Nat} (hx : x < 2 ^ 576) (hc : c < 2) :
    x - x / 2 ^ 336 + c ≤ Config.modulus ∧
      (x - x / 2 ^ 336 + c = Config.modulus ↔ x = 2 ^ 576 - 1 ∧ c = 1) := by
  unfold Config.modulus
  omega

/-- `ToLCG` is not truncated: `m` fits 576 bits. -/
theorem toLcg_toNat (x : Vec576) (c : BitVec 1) :
    (toLcg x c).toNat = x.toNat - x.toNat / 2 ^ 336 + c.toNat := by
  have hle := (lcg_le_modulus x.isLt c.isLt).1
  rw [toLcg, Nat.shiftRight_eq_div_pow, BitVec.toNat_ofNat]
  exact Nat.mod_eq_of_lt (hle.trans_lt (by decide +kernel))

/-- R201 item 3: one more in `x` is at most one more in `floor(x / 2^336)`. -/
theorem lcg_mono {x y : Nat} (h : x ≤ y) : x - x / 2 ^ 336 ≤ y - y / 2 ^ 336 := by
  omega

/-- R201 item 3: `floor(x / 2^336)` steps up with `x`, so the difference stays. -/
theorem lcg_succ_of_dvd {x : Nat} (h : 2 ^ 336 ∣ x + 1) : x - x / 2 ^ 336 = (x + 1) - (x + 1) / 2 ^ 336 := by
  omega

/-- Settles O20: the integer facts of R201 on the untruncated value; the examples are evaluated. -/
theorem toLcgFacts : Obligations.ToLcgFacts := by
  refine ⟨fun x c => ?_, by decide +kernel, fun _ _ => lcg_mono, fun _ => lcg_succ_of_dvd, by decide +kernel,
    by decide +kernel, by decide +kernel, by decide +kernel⟩
  obtain ⟨hle, hmax⟩ := lcg_le_modulus x.isLt c.isLt
  have hcarry : c.toNat = 1 ↔ c = 1 := BitVec.toNat_inj (y := 1)
  rw [toLcg_toNat, hmax, hcarry]
  exact ⟨rfl, hle, Iff.rfl⟩

/-! ### `ToRANLUX` (41_codec.md R203) -/

/-- `ToRANLUX` is the integer formula on the residue of its argument. -/
theorem toRanlux_eq_ranluxForm (x : Vec576) : toRanlux x = ranluxForm x.toNat := by
  rw [toRanlux, ranluxForm, canon_toNat, ranluxCarry_eq, ranluxBuffer_eq]

theorem toRanlux_fst_toNat (x : Vec576) : (toRanlux x).1.toNat = ranluxBuffer (x.toNat % Config.modulus) := by
  rw [toRanlux, canon_toNat]
  exact ranluxBuffer_toNat (Nat.mod_lt _ modulus_pos)

theorem toRanlux_snd_toNat (x : Vec576) : (toRanlux x).2.toNat = ranluxCarry (x.toNat % Config.modulus) := by
  rw [toRanlux, canon_toNat]
  exact ranluxCarry_toNat (Nat.mod_lt _ modulus_pos)

/-- Settles O22: the carry is what the value of the buffer leaves of the residue, and it is one bit. -/
theorem toRanluxValues : Obligations.ToRanluxValues := by
  intro x
  have hvalue := (ranluxCarry_spec (Nat.mod_lt x.toNat modulus_pos)).1
  dsimp only
  rw [toRanlux_fst_toNat, toRanlux_snd_toNat, ← ranluxBuffer_eq]
  exact ⟨rfl, by omega⟩

/-! ### The codec laws (41_codec.md R204) -/

/-- Round trip: buffer and carry are worth the residue. -/
theorem toLcg_toRanlux (x : Vec576) : toLcg (toRanlux x).1 (toRanlux x).2 = canon x := by
  apply BitVec.eq_of_toNat_eq
  rw [toLcg_toNat, toRanlux_fst_toNat, toRanlux_snd_toNat, canon_toNat]
  exact (ranluxCarry_spec (Nat.mod_lt _ modulus_pos)).1

theorem toLcg_toRanlux_of_lt {x : Vec576} (h : x.toNat < Config.modulus) :
    toLcg (toRanlux x).1 (toRanlux x).2 = x :=
  (toLcg_toRanlux x).trans (canon_of_lt h)

theorem toRanlux_canon (x : Vec576) : toRanlux (canon x) = toRanlux x := by
  rw [toRanlux, toRanlux, canon_toNat, canon_toNat, Nat.mod_mod]

theorem toRanlux_injective_of_lt {x y : Vec576} (hx : x.toNat < Config.modulus) (hy : y.toNat < Config.modulus)
    (h : toRanlux x = toRanlux y) : x = y := by
  rw [← toLcg_toRanlux_of_lt hx, h, toLcg_toRanlux_of_lt hy]

/-- `x·2^576 = x·m + x·(2^240 − 1)`, and below `2^336` the second term is less than `m`. -/
theorem ranluxBuffer_of_lt {x : Nat} (h : x < 2 ^ 336) : ranluxBuffer x = x := by
  rw [ranluxBuffer_eq]
  unfold Config.modulus
  omega

theorem toRanlux_of_lt {x : Vec576} (h : x.toNat < 2 ^ 336) : toRanlux x = (x, 0) := by
  have hres : (canon x).toNat = x.toNat :=
    (canon_toNat x).trans (Nat.mod_eq_of_lt (h.trans (by decide +kernel)))
  rw [toRanlux, hres, ranluxCarry_eq, ranluxBuffer_of_lt h, Nat.div_eq_of_lt h, Nat.sub_zero, Nat.sub_self,
    BitVec.ofNat_toNat, BitVec.setWidth_eq]
  rfl

/-- Settles O23: all but the values come from the round trip; the values at the boundary are evaluated. -/
theorem codecLaws : Obligations.CodecLaws := by
  refine ⟨fun x => ⟨toLcg_toRanlux x, ?_, ?_⟩, fun _ _ => toRanlux_injective_of_lt, fun _ => toLcg_toRanlux_of_lt,
    by decide +kernel, by decide +kernel, fun _ => toRanlux_of_lt, by decide +kernel⟩
  · rw [toLcg_toRanlux, canon_toNat, Nat.mod_mod]
  · rw [toLcg_toRanlux, toRanlux_canon]

/-! ### The commands (41_codec.md R206, R207) -/

theorem toLcg_toNat_eq_lcgValue (s : State) : (toLcg s.state s.carry).toNat = lcgValue s := by
  rw [toLcg_toNat, lcgValue]

theorem lcgValue_lt (s : State) : lcgValue s < 2 ^ 576 := toLcg_toNat_eq_lcgValue s ▸ BitVec.isLt _

theorem toLcg_eq_ofNat_lcgValue (s : State) : toLcg s.state s.carry = BitVec.ofNat 576 (lcgValue s) := by
  rw [← toLcg_toNat_eq_lcgValue, BitVec.ofNat_toNat, BitVec.setWidth_eq]

theorem exec_tolcg (rd : VReg) (s : State) :
    exec (.tolcg rd) s = .next (s.writeV rd (BitVec.ofNat 576 (lcgValue s))) :=
  congrArg (fun x => Host.Outcome.next (s.writeV rd x)) (toLcg_eq_ofNat_lcgValue s)

theorem exec_toranlux (ra : VReg) (s : State) :
    exec (.toranlux ra) s = .next ((s.loadGenerator (ranluxForm (s.readV ra).toNat) 0).setReady true) :=
  congrArg (fun p => Host.Outcome.next ((s.loadGenerator p 0).setReady true)) (toRanlux_eq_ranluxForm _)

/-- Settles O25: the written values are those of the integer formulas. -/
theorem codecCommandEffects : Obligations.CodecCommandEffects :=
  ⟨fun rd s => ⟨encode_and_maskWord (.tolcg rd), exec_tolcg rd s, lcgValue_lt s⟩,
    fun ra s => ⟨encode_and_maskWord (.toranlux ra), exec_toranlux ra s⟩⟩

end Sys2Proof.Machine
end

section
/-! PROOFS of the statements on the generator (42_generator.md): a block in integers, the word of an extraction, the double of a word, the whole effect of each command, and the stream of words. -/

set_option exponentiation.threshold 1200

namespace Sys2Proof.Machine

/-! ### Residues in RANLUX form (41_codec.md R203, R204) -/

theorem ranluxForm_congr {n n' : Nat} (h : n % Config.modulus = n' % Config.modulus) : ranluxForm n = ranluxForm n' := by
  rw [ranluxForm, ranluxForm, h]

/-- The RANLUX form of `n` is worth the residue of `n`. -/
theorem lcgValue_of_ranluxForm {s : State} {n : Nat} (hstate : s.state = (ranluxForm n).1)
    (hcarry : s.carry = (ranluxForm n).2) : lcgValue s % Config.modulus = n % Config.modulus := by
  have hres : n % Config.modulus < Config.modulus := Nat.mod_lt n modulus_pos
  have hsmall : (BitVec.ofNat 576 (n % Config.modulus)).toNat = n % Config.modulus :=
    (BitVec.toNat_ofNat ..).trans (Nat.mod_eq_of_lt (hres.trans_le (modulus_add ▸ Nat.le_add_right ..)))
  have hform : ranluxForm n = toRanlux (BitVec.ofNat 576 (n % Config.modulus)) := by
    rw [toRanlux_eq_ranluxForm]
    refine ranluxForm_congr ?_
    rw [hsmall, Nat.mod_mod]
  rw [← toLcg_toNat_eq_lcgValue, hstate, hcarry, hform, toLcg_toRanlux, canon_ofNat_toNat hres, Nat.mod_mod]

/-- The update as a record, for statements that write it out. -/
theorem State.loadGenerator_eq (s : State) (p : Vec576 × BitVec 1) (o : BitVec 10) :
    s.loadGenerator p o = { s with state := p.1, carry := p.2, offset := o } := rfl

/-! ### One block and `A^k` blocks (42_generator.md R231, R245) -/

theorem multiplyGenerator_eq (p : Vec576) (o : BitVec 10) (s : State) :
    multiplyGenerator p o s = s.loadGenerator (ranluxForm (p.toNat * lcgValue s)) o := by
  rw [multiplyGenerator, toRanlux_eq_ranluxForm, ranluxForm_congr (mulMod_mod ..), toLcg_toNat_eq_lcgValue, Nat.mul_comm]

theorem advance_eq (s : State) : advance s = s.loadGenerator (ranluxForm (Config.kA.toNat * lcgValue s)) 0 :=
  multiplyGenerator_eq Config.kA 0 s

/-! ### The word of an extraction (42_generator.md R230, R240) -/

theorem extract_eq_ofNat (x : Vec576) (o : Nat) : extract x o = BitVec.ofNat Config.wordBits (x.toNat / 2 ^ o) := by
  rw [extract, Nat.shiftRight_eq_div_pow]

theorem extract_toNat (x : Vec576) (o : Nat) : (extract x o).toNat = x.toNat / 2 ^ o % 2 ^ 48 := by
  rw [extract_eq_ofNat]
  exact BitVec.toNat_ofNat ..

theorem rawWord_toNat (w : BitVec Config.wordBits) : (rawWord w).toNat = w.toNat :=
  BitVec.toNat_setWidth_of_le (by decide)

theorem rawWord_extract (x : Vec576) (o : Nat) : rawWord (extract x o) = BitVec.ofNat 64 (x.toNat / 2 ^ o % 2 ^ 48) := by
  rw [← extract_toNat, ← rawWord_toNat, BitVec.ofNat_toNat, BitVec.setWidth_eq]

theorem takeWord_of_le {s : State} (h : s.offset.toNat ≤ 528) (f : BitVec Config.wordBits → Limb) :
    takeWord f s =
      (s.setRes (f (extract s.state s.offset.toNat))).setOffset (BitVec.ofNat 10 (s.offset.toNat + 48)) := by
  have hkeep : ensureWord s = s := if_neg (Nat.not_lt.mpr (Nat.add_le_add_right h 48))
  rw [takeWord, hkeep]
  rfl

/-- A used-up block is advanced, and the word is the first of the next block (42_generator.md R241). -/
theorem takeWord_of_lt {s : State} (h : 528 < s.offset.toNat) (f : BitVec Config.wordBits → Limb) :
    takeWord f s = takeWord f (advance s) := by
  have hadvance : ensureWord s = advance s := if_pos (Nat.add_lt_add_right h 48)
  have hkeep : ensureWord (advance s) = advance s := if_neg (by decide : ¬ 576 < 0 + 48)
  rw [takeWord, takeWord, hadvance, hkeep]

theorem takeWord_of_lt_eq {s : State} (h : 528 < s.offset.toNat) (f : BitVec Config.wordBits → Limb) :
    takeWord f s =
      (s.loadGenerator (ranluxForm (Config.kA.toNat * lcgValue s)) 48).setRes
        (f (extract (ranluxForm (Config.kA.toNat * lcgValue s)).1 0)) := by
  have hfirst : (advance s).offset.toNat ≤ 528 := Nat.zero_le 528
  rw [takeWord_of_lt h, takeWord_of_le hfirst, advance_eq]
  rfl

/-! ### The double of a word (42_generator.md R249) -/

/-- The place of the leading bit, and what is left below it moved up to bit 51, do not overlap. -/
theorem f64Bits_toNat {w : BitVec Config.wordBits} (h : w ≠ 0) :
    ∃ e ≤ 47, 2 ^ e ≤ w.toNat ∧ w.toNat < 2 ^ (e + 1) ∧ (w.toNat - 2 ^ e) * 2 ^ (52 - e) < 2 ^ 52 ∧
      (f64Bits w).toNat = 2 ^ 52 * (e + 975) + (w.toNat - 2 ^ e) * 2 ^ (52 - e) := by
  have hw : w.toNat ≠ 0 := fun h0 => h (BitVec.eq_of_toNat_eq h0)
  have he : Nat.log2 w.toNat < 48 := (Nat.log2_lt hw).mpr w.isLt
  have hlow : 2 ^ Nat.log2 w.toNat ≤ w.toNat := Nat.log2_self_le hw
  have hhigh : w.toNat < 2 ^ (Nat.log2 w.toNat + 1) := Nat.lt_log2_self
  rw [f64Bits, if_neg hw]
  generalize Nat.log2 w.toNat = e at *
  have hfraction : (w.toNat - 2 ^ e) * 2 ^ (52 - e) < 2 ^ 52 := by
    have hrest : w.toNat - 2 ^ e < 2 ^ e := by rw [Nat.pow_succ] at hhigh; omega
    calc (w.toNat - 2 ^ e) * 2 ^ (52 - e) < 2 ^ e * 2 ^ (52 - e) := Nat.mul_lt_mul_of_pos_right hrest (Nat.two_pow_pos _)
      _ = 2 ^ 52 := by rw [← Nat.pow_add, Nat.add_sub_cancel' (by omega)]
  refine ⟨e, Nat.le_of_lt_succ he, hlow, hhigh, hfraction, ?_⟩
  dsimp only
  rw [Nat.shiftLeft_eq (w.toNat - 2 ^ e), ← Nat.shiftLeft_add_eq_or_of_lt hfraction, Nat.shiftLeft_eq, BitVec.toNat_ofNat,
    Nat.mul_comm, Nat.mod_eq_of_lt (by omega)]

/-- The leading bit at bit 52 and the fraction make up the word moved up by `52 - e`. -/
theorem mantissa_eq {w e : Nat} (hle : 2 ^ e ≤ w) (he : e ≤ 47) :
    2 ^ 52 + (w - 2 ^ e) * 2 ^ (52 - e) = w * 2 ^ (52 - e) := by
  have hlead : 2 ^ 52 = 2 ^ e * 2 ^ (52 - e) := by rw [← Nat.pow_add, Nat.add_sub_cancel' (by omega)]
  rw [hlead, ← Nat.add_mul, Nat.add_sub_cancel' hle]

theorem mantissa_value {w e : Nat} (hle : 2 ^ e ≤ w) (he : e ≤ 47) :
    (2 ^ 52 + (w - 2 ^ e) * 2 ^ (52 - e)) * 2 ^ (e + 975) * 2 ^ 48 = w * 2 ^ 1075 := by
  have hexp : 52 - e + (e + 975) + 48 = 1075 := by omega
  rw [mantissa_eq hle he, Nat.mul_assoc, Nat.mul_assoc, ← Nat.pow_add, ← Nat.pow_add, ← Nat.add_assoc, hexp]

/-- Settles O31: exponent and fraction are the two parts of the pattern's sum, and the value is that of the mantissa. -/
theorem doubleIsExact : Obligations.DoubleIsExact := by
  refine ⟨by decide +kernel, fun w hw => ?_, by decide +kernel, by decide +kernel, by decide +kernel⟩
  obtain ⟨e, he, hlow, hhigh, hfraction, hbits⟩ := f64Bits_toNat hw
  have hexponent : (f64Bits w).toNat / 2 ^ 52 = e + 975 := by
    rw [hbits, Nat.mul_add_div (by decide), Nat.div_eq_of_lt hfraction, Nat.add_zero]
  have hrest : (f64Bits w).toNat % 2 ^ 52 = (w.toNat - 2 ^ e) * 2 ^ (52 - e) := by
    rw [hbits, Nat.mul_add_mod]
    exact Nat.mod_eq_of_lt hfraction
  dsimp only
  rw [hexponent, hrest]
  exact ⟨⟨e, hlow, hhigh, rfl, rfl⟩, by omega, by omega, mantissa_value hlow he⟩

/-! ### `SEED` (42_generator.md R232, R233) -/

theorem powerMod_powerMod_mod (b : Vec576) (e e' : Limb) :
    (powerMod (powerMod b e) e').toNat % Config.modulus = b.toNat ^ (e.toNat * e'.toNat) % Config.modulus := by
  rw [powerMod_mod, Nat.pow_mod, powerMod_mod, ← Nat.pow_mod, Nat.pow_mul]

/-- The two warm-up stages raise to `2^48` each, and the fold into the identity changes no residue. -/
theorem seedLcg_mod (seed : Limb) :
    (seedLcg seed).toNat % Config.modulus = Config.kA.toNat ^ (2 ^ 96 * seed.toNat) % Config.modulus := by
  have hstage : (BitVec.ofNat 64 (2 ^ 48)).toNat = 2 ^ 48 := by decide
  have hone : (1 : Vec576).toNat = 1 := by decide
  have hexp : 2 ^ 48 * 2 ^ 48 = 2 ^ 96 := by decide
  rw [seedLcg, mulMod_mod, hone, Nat.one_mul, powerMod_mod, Nat.pow_mod, powerMod_powerMod_mod, ← Nat.pow_mod, ← Nat.pow_mul,
    hstage, hexp, multiplierOperand]

/-- The state that `SEED` leaves (42_generator.md R233). -/
def afterSeed (s : State) : State :=
  let p := ranluxForm (Config.kA.toNat ^ (2 ^ 96 * s.arg.toNat))
  { s with state := p.1, carry := p.2, offset := 0, ready := true }

theorem exec_seed_eq (s : State) : exec .seed s = .next (afterSeed s) := by
  rw [exec_seed, toRanlux_eq_ranluxForm, ranluxForm_congr (seedLcg_mod s.arg), afterSeed, State.loadGenerator_eq]
  rfl

theorem afterSeed_generator (s : State) :
    (afterSeed s).offset = 0 ∧ (afterSeed s).ready = true ∧
      (afterSeed s).state = (ranluxForm (Config.kA.toNat ^ (2 ^ 96 * s.arg.toNat))).1 ∧
      (afterSeed s).carry = (ranluxForm (Config.kA.toNat ^ (2 ^ 96 * s.arg.toNat))).2 :=
  ⟨rfl, rfl, rfl, rfl⟩

theorem offsetLegal_afterSeed (s : State) : OffsetLegal (afterSeed s) := ⟨rfl, Nat.zero_le 576⟩

/-! ### The commands behind the Ready check (42_generator.md R236 to R248) -/

theorem exec_advance_of_ready {s : State} (h : s.ready = true) : exec .advance s = .next (advance s) :=
  requireReady_of_ready h .advance advance

theorem exec_nextdbl_of_ready {s : State} (h : s.ready = true) : exec .nextdbl s = .next (takeWord f64Bits s) :=
  requireReady_of_ready h .nextdbl (takeWord f64Bits)

theorem exec_skip_of_ready {s : State} (h : s.ready = true) : exec .skip s = .next (skipWords s.arg.toNat s) :=
  requireReady_of_ready h .skip (skipWords s.arg.toNat)

/-- Settles O36: `RESTORE` has no Ready check and computes nothing. -/
theorem restoreSetsReady : Obligations.RestoreSetsReady := fun _ => ⟨rfl, rfl⟩

/-- Settles O28: the product with `A` as an integer. -/
theorem advanceMultipliesByA : Obligations.AdvanceMultipliesByA := by
  refine ⟨rfl, fun s hs => ?_, fun s => exec_of_not_ready rfl⟩
  rw [exec_advance_of_ready hs, advance_eq, State.loadGenerator_eq]

/-- Settles O29: within the block, and past its end. -/
theorem nextTakesTheWindow : Obligations.NextTakesTheWindow := by
  refine ⟨rfl, fun s => exec_of_not_ready rfl, fun s hs => ⟨fun hle => ?_, fun hlt => ?_⟩⟩
  · rw [exec_next_of_ready hs, takeWord_of_le hle, rawWord_extract]
    rfl
  · rw [exec_next_of_ready hs, takeWord_of_lt_eq hlt, rawWord_extract, Nat.pow_zero, Nat.div_one]
    rfl

/-- Settles O30: within the block, and past its end. -/
theorem nextdblTakesTheWindowAsADouble : Obligations.NextdblTakesTheWindowAsADouble := by
  refine ⟨rfl, fun s => exec_of_not_ready rfl, fun s hs => ⟨fun hle => ?_, fun hlt => ?_⟩⟩
  · rw [exec_nextdbl_of_ready hs, takeWord_of_le hle, extract_eq_ofNat]
    rfl
  · rw [exec_nextdbl_of_ready hs, takeWord_of_lt_eq hlt, extract_eq_ofNat, Nat.pow_zero, Nat.div_one]
    rfl

/-! ### `SKIP` (42_generator.md R245) -/

theorem wordsLeft_eq (s : State) : wordsLeft s = (576 - s.offset.toNat) / 48 := rfl

theorem skipWords_of_lt {n : Nat} {s : State} (h : n < wordsLeft s) :
    skipWords n s = s.setOffset (BitVec.ofNat 10 (s.offset.toNat + 48 * n)) :=
  if_pos h

theorem powerMod_kA_mod {k : Nat} (h : k < 2 ^ 64) :
    (powerMod Config.kA (BitVec.ofNat 64 k)).toNat % Config.modulus = Config.kA.toNat ^ k % Config.modulus := by
  rw [powerMod_mod, BitVec.toNat_ofNat, Nat.mod_eq_of_lt h]

/-- The block count fits the 64-bit exponent, so the long path is `A^(k+1)`. -/
theorem skipWords_of_le {n : Nat} {s : State} (hn : n < 2 ^ 64) (h : wordsLeft s ≤ n) :
    skipWords n s =
      s.loadGenerator (ranluxForm (Config.kA.toNat ^ ((n - wordsLeft s) / 12 + 1) * lcgValue s))
        (BitVec.ofNat 10 (48 * ((n - wordsLeft s) % 12))) := by
  have hpower := powerMod_kA_mod (k := (n - wordsLeft s) / 12 + 1) (by omega)
  rw [skipWords, if_neg (Nat.not_lt.mpr h)]
  dsimp only [Config.wordsPerBlock, Config.wordBits, multiplierOperand]
  rw [multiplyGenerator_eq, ranluxForm_congr (Nat.ModEq.mul_right _ hpower), Nat.mod_eq_sub]

/-- Settles O32: the two paths. -/
theorem skipPaths : Obligations.SkipPaths := by
  refine ⟨rfl, fun s => exec_of_not_ready rfl, fun s hs => ⟨fun hlt => ?_, fun hle => ?_⟩⟩
  · rw [exec_skip_of_ready hs, skipWords_of_lt hlt]
    rfl
  · rw [exec_skip_of_ready hs, skipWords_of_le s.arg.isLt hle, State.loadGenerator_eq, wordsLeft_eq]

/-! ### Only the triple matters (42_generator.md R250, 10_state.md R46) -/

theorem triple_eq_iff (s t : State) :
    triple s = triple t ↔ s.state = t.state ∧ s.carry = t.carry ∧ s.offset = t.offset := by
  simp [triple]

section
variable {s s' : State} (h : triple s = triple s')
include h

theorem triple_multiplyGenerator (p : Vec576) (o : BitVec 10) :
    triple (multiplyGenerator p o s) = triple (multiplyGenerator p o s') := by
  obtain ⟨hstate, hcarry, -⟩ := (triple_eq_iff s s').mp h
  rw [multiplyGenerator, multiplyGenerator, hstate, hcarry]
  rfl

theorem triple_ensureWord : triple (ensureWord s) = triple (ensureWord s') := by
  obtain ⟨-, -, hoffset⟩ := (triple_eq_iff s s').mp h
  rw [ensureWord, ensureWord, hoffset]
  split
  · exact triple_multiplyGenerator h ..
  · exact h

theorem takeWord_res_triple (f : BitVec Config.wordBits → Limb) :
    (takeWord f s).res = (takeWord f s').res ∧ triple (takeWord f s) = triple (takeWord f s') := by
  obtain ⟨hstate, hcarry, hoffset⟩ := (triple_eq_iff _ _).mp (triple_ensureWord h)
  simp [takeWord, triple_eq_iff, hstate, hcarry, hoffset]

theorem triple_skipWords (n : Nat) : triple (skipWords n s) = triple (skipWords n s') := by
  obtain ⟨hstate, hcarry, hoffset⟩ := (triple_eq_iff s s').mp h
  rw [skipWords, skipWords, wordsLeft, wordsLeft, hoffset]
  split
  · rw [triple_eq_iff]
    exact ⟨hstate, hcarry, rfl⟩
  · exact triple_multiplyGenerator h ..

end

/-- Settles O37, command by command. -/
theorem generatorDependsOnTheTripleOnly : Obligations.GeneratorDependsOnTheTripleOnly := by
  intro s s' t t' hs hs' h
  rw [exec_next_of_ready hs, exec_next_of_ready hs', exec_nextdbl_of_ready hs, exec_nextdbl_of_ready hs',
    exec_advance_of_ready hs, exec_advance_of_ready hs', exec_skip_of_ready hs, exec_skip_of_ready hs']
  refine ⟨?_, ?_, ?_, fun harg => ?_⟩ <;> rintro ⟨⟩ ⟨⟩
  · exact takeWord_res_triple h rawWord
  · exact takeWord_res_triple h f64Bits
  · exact triple_multiplyGenerator h ..
  · exact harg ▸ triple_skipWords h s.arg.toNat

/-! ### The stream of words (42_generator.md R242) -/

/-- The block `j` blocks after the current one. The host may load any `STATE`, so the current block need not be the RANLUX form
of its value. -/
def blockAfter (s : State) (j : Nat) : Vec576 :=
  if j = 0 then s.state else (ranluxForm (Config.kA.toNat ^ j * lcgValue s)).1

/-- The `n`-th word from `OFFSET` on, through the rest of the current block and the blocks after it. -/
def streamWord (s : State) (n : Nat) : BitVec Config.wordBits :=
  extract (blockAfter s ((s.offset.toNat / 48 + n) / 12)) (48 * ((s.offset.toNat / 48 + n) % 12))

theorem streamWord_eq {s : State} {k : Nat} (h : s.offset.toNat = 48 * k) (n : Nat) :
    streamWord s n = extract (blockAfter s ((k + n) / 12)) (48 * ((k + n) % 12)) := by
  rw [streamWord, h, Nat.mul_div_cancel_left k (by decide)]

theorem streamWord_of_lt {s : State} {k n : Nat} (h : s.offset.toNat = 48 * k) (hlt : k + n < 12) :
    streamWord s n = extract s.state (48 * (k + n)) := by
  rw [streamWord_eq h, Nat.div_eq_of_lt hlt, Nat.mod_eq_of_lt hlt, blockAfter, if_pos rfl]

theorem blockAfter_congr {s t : State} (hstate : t.state = s.state) (hcarry : t.carry = s.carry) (j : Nat) :
    blockAfter t j = blockAfter s j := by
  rw [blockAfter, blockAfter, lcgValue, lcgValue, hstate, hcarry]

theorem blockAfter_setRes_setOffset (s : State) (x : Limb) (o : BitVec 10) (j : Nat) :
    blockAfter ((s.setRes x).setOffset o) j = blockAfter s j :=
  blockAfter_congr (s := s) (t := (s.setRes x).setOffset o) rfl rfl j

theorem streamWord_congr {s t : State} (h : triple s = triple t) (n : Nat) : streamWord s n = streamWord t n := by
  obtain ⟨hstate, hcarry, hoffset⟩ := (triple_eq_iff s t).mp h
  rw [streamWord, streamWord, hoffset, blockAfter_congr hstate hcarry]

theorem blockAfter_of_ranluxForm {s : State} {n : Nat} (hstate : s.state = (ranluxForm n).1)
    (hcarry : s.carry = (ranluxForm n).2) (j : Nat) :
    blockAfter s j = (ranluxForm (Config.kA.toNat ^ j * n)).1 := by
  rw [blockAfter]
  split
  case isTrue hj => rw [hstate, hj, Nat.pow_zero, Nat.one_mul]
  case isFalse => rw [ranluxForm_congr (Nat.ModEq.mul_left _ (lcgValue_of_ranluxForm hstate hcarry))]

theorem blockAfter_advance (s : State) (j : Nat) : blockAfter (advance s) j = blockAfter s (j + 1) := by
  rw [advance_eq, blockAfter_of_ranluxForm rfl rfl, blockAfter, if_neg (Nat.succ_ne_zero j), Nat.pow_succ, Nat.mul_assoc]

/-- The start of the next block is the end of this one. -/
theorem streamWord_advance {s : State} (h : s.offset.toNat = 48 * 12) (n : Nat) :
    streamWord (advance s) n = streamWord s n := by
  have hfirst : (advance s).offset.toNat = 48 * 0 := rfl
  rw [streamWord_eq hfirst, streamWord_eq h, blockAfter_advance, Nat.zero_add, Nat.add_mod_left,
    Nat.add_div_left n (by decide)]

/-- What a `NEXT` from `s` to `t` does to the stream: it returns the first word and leaves the rest. -/
structure TakesFirstWord (s t : State) : Prop where
  res : t.res = rawWord (streamWord s 0)
  rest : ∀ n, streamWord t n = streamWord s (n + 1)
  ready : t.ready = s.ready
  offset : OffsetLegal t

theorem takesFirstWord_of_lt {s : State} {k : Nat} (h : s.offset.toNat = 48 * k) (hk : k < 12) :
    TakesFirstWord s (takeWord rawWord s) := by
  have hmoved : (BitVec.ofNat 10 (48 * k + 48)).toNat = 48 * (k + 1) :=
    (BitVec.toNat_ofNat ..).trans (Nat.mod_eq_of_lt (by omega))
  rw [takeWord_of_le (by omega), h]
  refine ⟨?_, fun n => ?_, rfl, ?_⟩
  · rw [streamWord_of_lt h (n := 0) hk]
    rfl
  · rw [streamWord_eq h, streamWord_eq hmoved, Nat.add_right_comm k 1 n, Nat.add_assoc,
      blockAfter_setRes_setOffset]
  · rw [OffsetLegal, State.setOffset_offset, hmoved]
    omega

theorem takesFirstWord {s : State} (h : OffsetLegal s) : TakesFirstWord s (takeWord rawWord s) := by
  obtain ⟨k, hk⟩ := Nat.dvd_of_mod_eq_zero h.1
  obtain hlt | rfl : k < 12 ∨ k = 12 := by omega
  · exact takesFirstWord_of_lt hk hlt
  · obtain ⟨hres, hrest, hready, hoffset⟩ := takesFirstWord_of_lt (s := advance s) (k := 0) rfl (by decide)
    rw [← takeWord_of_lt (by omega)] at hres hrest hready hoffset
    exact ⟨by rw [hres, streamWord_advance hk], fun n => by rw [hrest, streamWord_advance hk], hready, hoffset⟩

theorem repeatNext_succ_of_ready {s : State} (h : s.ready = true) (n : Nat) :
    repeatNext (n + 1) s = repeatNext n (takeWord rawWord s) := by
  rw [repeatNext, exec_next_of_ready h]

/-- The `NEXT`s read the stream word by word. -/
theorem repeatNext_streamWord (n : Nat) {s : State} (hs : s.ready = true) (h : OffsetLegal s) :
    ∃ u, repeatNext (n + 1) s = .next u ∧ u.res = rawWord (streamWord s n) := by
  induction n generalizing s with
  | zero =>
    rw [repeatNext_succ_of_ready hs]
    exact ⟨_, rfl, (takesFirstWord h).res⟩
  | succ n ih =>
    obtain ⟨-, hrest, hready, hoffset⟩ := takesFirstWord h
    rw [repeatNext_succ_of_ready hs, ← hrest]
    exact ih (hready.trans hs) hoffset

/-- Settles O34: the words as the stream gives them, from a block the host may have loaded and from the one `SEED` leaves. -/
theorem nextsReadTheStream : Obligations.NextsReadTheStream := by
  refine ⟨fun s n hs h => ?_, fun s n => ?_⟩
  · obtain ⟨k, hk⟩ := Nat.dvd_of_mod_eq_zero h.1
    obtain ⟨u, hu, hres⟩ := repeatNext_streamWord n hs h
    refine ⟨u, hu, fun hlt => ?_, fun hle => ?_⟩
    · rw [hres, rawWord_toNat, streamWord_of_lt hk (by omega), extract_toNat, hk, Nat.mul_add]
    · have hblock : (k + n) / 12 = (n - (576 - s.offset.toNat) / 48) / 12 + 1 := by omega
      have hword : (k + n) % 12 = (n - (576 - s.offset.toNat) / 48) % 12 := by omega
      rw [hres, rawWord_toNat, streamWord_eq hk, extract_toNat, hblock, hword, blockAfter, if_neg (Nat.succ_ne_zero _)]
  · obtain ⟨hoffset, hready, hstate, hcarry⟩ := afterSeed_generator s
    obtain ⟨u, hu, hres⟩ := repeatNext_streamWord n hready (offsetLegal_afterSeed s)
    refine ⟨afterSeed s, u, exec_seed_eq s, hu, hoffset, lcgValue_of_ranluxForm hstate hcarry, ?_⟩
    dsimp only
    rw [hres, rawWord_toNat, streamWord_eq (k := 0) (congrArg BitVec.toNat hoffset), extract_toNat,
      blockAfter_of_ranluxForm hstate hcarry, Nat.zero_add, Nat.pow_add Config.kA.toNat]

/-- Settles O27: all that follows `SEED` is a function of the triple it leaves, which is one of `ARG`. -/
theorem seedIsAPowerOfA : Obligations.SeedIsAPowerOfA := by
  refine ⟨exec_seed_eq, fun s s' t t' harg ht ht' => ?_⟩
  obtain rfl := Host.Outcome.next.inj ((exec_seed_eq s).symm.trans ht)
  obtain rfl := Host.Outcome.next.inj ((exec_seed_eq s').symm.trans ht')
  have htriple : triple (afterSeed s) = triple (afterSeed s') := by
    rw [triple, triple, afterSeed, afterSeed, harg]
  refine ⟨htriple, fun n u u' hu hu' => ?_⟩
  obtain ⟨v, hv, hres⟩ := repeatNext_streamWord n rfl (offsetLegal_afterSeed s)
  obtain ⟨v', hv', hres'⟩ := repeatNext_streamWord n rfl (offsetLegal_afterSeed s')
  obtain rfl := Host.Outcome.next.inj (hu.symm.trans hv)
  obtain rfl := Host.Outcome.next.inj (hu'.symm.trans hv')
  rw [hres, hres', streamWord_congr htriple]

end Sys2Proof.Machine
end

section
/-! PROOFS of the statements on errors (60_exceptions.md): all that an event can do to the error record, what a step keeps of `OFFSET`, and the Ready check. -/

namespace Sys2Proof.Machine

/-! ### All that an event can do to the error record (60_exceptions.md R302, R310) -/

/-- What becomes of the error record, and of all else when an error is raised: every step has such an effect
(`step_errorEffect`). -/
inductive ErrorEffect (e : BusEvent) (s t : State) : Prop
  /-- The record stays as it is. -/
  | kept (herr : t.err = s.err) (hcode : t.errCode = s.errCode) (hinfo : t.errInfo = s.errInfo)
  /-- A reset or an error clear empties the record. -/
  | cleared (he : isReset e ∨ e = wr .ctrl 2) (herr : t.err = false) (hcode : t.errCode = 0) (hinfo : t.errInfo = 0)
  /-- An error is raised where none was recorded; a read then returns 0. -/
  | raised (hs : s.err = false) (c : ErrorCode) (info : BitVec 32) (hbus : 4 ≤ c.code.toNat → info.toNat < 0x800)
      (r : Option Limb) (hread : (∃ off n, e = .read off n) → r = some 0)
      (ht : t = (s.setError true c.code info).setResponse r)

theorem ErrorEffect.refl (e : BusEvent) (s : State) : ErrorEffect e s s := .kept rfl rfl rfl

/-- A write that raises an error returns nothing. -/
theorem ErrorEffect.raised_of_write {off : WinOff} {n : Nat} {v : Limb} {s : State} (hs : s.err = false) (c : ErrorCode)
    {info : BitVec 32} (hbus : 4 ≤ c.code.toNat → info.toNat < 0x800) :
    ErrorEffect (.write off n v) s (s.setError true c.code info) :=
  .raised hs c info hbus s.response (fun ⟨_, _, h⟩ => nomatch h) rfl

theorem toNat_ofNat_lt_window {info : Nat} (h : info < 0x800) : (BitVec.ofNat 32 info).toNat < 0x800 := by
  rw [BitVec.toNat_ofNat]
  exact (Nat.mod_le ..).trans_lt h

/-- Raising an error records it only if it is the first (60_exceptions.md R302). -/
theorem errorEffect_raiseError {c : ErrorCode} {info : Nat} (hinfo : info < 0x800) {off : WinOff} {n : Nat} {v : Limb}
    (s : State) : ErrorEffect (.write off n v) s (raiseError c info s) := by
  obtain ⟨-, h⟩ | ⟨hs, h⟩ := raiseError_cases c info s <;> rw [h]
  · exact .refl _ s
  · exact .raised_of_write hs c fun _ => toNat_ofNat_lt_window hinfo

/-- A read that raises an error returns 0, whether or not the error is the first. -/
theorem errorEffect_raiseError_respond {c : ErrorCode} {info : Nat} (hinfo : info < 0x800) (e : BusEvent) (s : State) :
    ErrorEffect e s ((raiseError c info s).setResponse (some 0)) := by
  obtain ⟨-, h⟩ | ⟨hs, h⟩ := raiseError_cases c info s <;> rw [h]
  · exact .kept rfl rfl rfl
  · exact .raised hs c _ (fun _ => toNat_ofNat_lt_window hinfo) (some 0) (fun _ => rfl) rfl

theorem errorEffect_busRead (off : WinOff) (n : Nat) (s : State) : ErrorEffect (.read off n) s (busRead off n s) := by
  obtain ⟨-, h⟩ | ⟨-, -, h⟩ | ⟨-, r, -, h⟩ := busRead_cases off n s <;> rw [h]
  · exact errorEffect_raiseError_respond off.isLt _ s
  · exact errorEffect_raiseError_respond off.isLt _ s
  · exact .kept rfl rfl rfl

theorem errorEffect_writeCtrl (v : Limb) (s : State) : ErrorEffect (wr .ctrl v) s (writeCtrl v s) := by
  obtain ⟨-, h⟩ | ⟨hv, h⟩ | ⟨rfl, h⟩ | ⟨-, h⟩ := writeCtrl_cases v s <;> rw [h]
  · exact errorEffect_raiseError (by decide) s
  · have hreset : isReset (wr .ctrl v) :=
      .inr (.inr (.inr (hv.imp (congrArg (wr .ctrl)) (congrArg (wr .ctrl)))))
    exact .cleared (.inl hreset) rfl rfl rfl
  · exact .cleared (.inr rfl) rfl rfl rfl
  · exact .refl _ s

theorem errorEffect_writeReg (r : WinReg) (v : Limb) (s : State) : ErrorEffect (wr r v) s (writeReg r v s) := by
  cases r with
  | id | cfg | status | res | a => exact errorEffect_raiseError (WinReg.windowOffset_bounds _).2 s
  | ctrl => exact errorEffect_writeCtrl v s
  | offset =>
    rw [writeReg]
    obtain ⟨-, h⟩ | ⟨-, h⟩ := writeOffset_cases v s <;> rw [h]
    · exact .kept rfl rfl rfl
    · exact errorEffect_raiseError (by decide) s
  | carry =>
    rw [writeReg]
    obtain ⟨-, h⟩ | ⟨-, h⟩ := writeCarry_cases v s <;> rw [h]
    · exact .kept rfl rfl rfl
    · exact errorEffect_raiseError (by decide) s
  | cmd | arg | state | prod | v => exact .kept rfl rfl rfl

/-- The codes of the errors that a command word can raise are below those of the bus (60_exceptions.md R301). -/
theorem decodeErrorCode_code_lt (e : DecodeError) : (decodeErrorCode e).code.toNat < 4 := by cases e <;> decide

/-- A command without a recorded error fails its Ready check or leaves the record alone (60_exceptions.md R305). -/
theorem errorEffect_exec {off : WinOff} {n : Nat} {v : Limb} {i : Instr} {s t : State} (herr : s.err = false)
    (h : exec i s = .next t) : ErrorEffect (.write off n v) s t := by
  by_cases hready : i.opcode.needsReady = true → s.ready = true
  · obtain ⟨hkept, hcode, hinfo⟩ := exec_errorRecord h hready
    exact .kept hkept hcode hinfo
  · obtain ⟨hi, hs⟩ := Classical.not_imp.mp hready
    rw [exec_of_not_ready hi (Bool.eq_false_iff.mpr hs) herr] at h
    cases h
    exact .raised_of_write herr .notReady fun hbus => absurd hbus (by decide)

theorem errorEffect_issueCommand {off : WinOff} {n : Nat} {v : Limb} {s t : State} (h : issueCommand v s = .next t) :
    ErrorEffect (.write off n v) s t := by
  obtain ⟨-, hi⟩ | ⟨herr, e, -, hi⟩ | ⟨herr, i, -, hi⟩ := issueCommand_cases v s <;> rw [hi] at h
  · cases h
    exact .refl _ s
  · cases h
    exact .raised_of_write herr (decodeErrorCode e) fun hbus => absurd hbus (Nat.not_le.mpr (decodeErrorCode_code_lt e))
  · exact errorEffect_exec herr h

theorem errorEffect_busWrite {off : WinOff} {n : Nat} {v : Limb} {s t : State} (h : busWrite off n v s = .next t) :
    ErrorEffect (.write off n v) s t := by
  obtain ⟨-, hw⟩ | ⟨-, -, hw⟩ | ⟨-, hw⟩ | ⟨rfl, r, -, rfl, hw⟩ := busWrite_cases off n v s <;> rw [hw] at h
  · cases h
    exact errorEffect_raiseError off.isLt s
  · cases h
    exact errorEffect_raiseError off.isLt s
  · exact errorEffect_issueCommand h
  · cases h
    exact errorEffect_writeReg r v s

theorem step_errorEffect {s t : State} {e : BusEvent} {rest : List BusEvent}
    (h : step (s.setPending (e :: rest)) = .next t) : ErrorEffect e (takeEvent rest s) t := by
  rw [step_setPending_cons] at h
  cases e with
  | read off n => cases h; exact errorEffect_busRead off n _
  | write off n v => exact errorEffect_busWrite h
  | elsewhere => cases h; exact .refl _ _
  | reset => cases h; exact .cleared (.inl (.inl rfl)) rfl rfl rfl
  | abandonedCmd v => cases h; exact .cleared (.inl (.inr (.inl ⟨v, rfl⟩))) rfl rfl rfl
  | powerCycle => cases h; exact .cleared (.inl (.inr (.inr (.inl rfl)))) rfl rfl rfl

/-! ### The first error wins, and errors are precise (60_exceptions.md R302) -/

/-- Settles O52: with an error recorded, a step can only keep the record or empty it. -/
theorem firstErrorWins : Obligations.FirstErrorWins := by
  refine ⟨fun c info s herr => ?_, fun c info s herr => raiseError_of_error herr c info,
    fun s t e rest herr hreset hclear h => ?_⟩
  · have hinfo : BitVec.ofNat 32 (info % 2 ^ 32) = BitVec.ofNat 32 info := by
      apply BitVec.eq_of_toNat_eq
      rw [BitVec.toNat_ofNat, BitVec.toNat_ofNat, Nat.mod_mod]
    rw [raiseError_of_noError herr, hinfo]
    rfl
  · cases step_errorEffect h with
    | kept hkept hcode hinfo => exact ⟨hkept.trans herr, hcode, hinfo⟩
    | cleared he => exact absurd he (not_or.mpr ⟨hreset, hclear⟩)
    | raised hs => cases herr.symm.trans hs

/-- Settles O53: of the effects a step can have on an empty record, only `raised` leaves an error there. -/
theorem errorsArePrecise : Obligations.ErrorsArePrecise := by
  intro s t e rest herr h hset
  cases step_errorEffect h with
  | kept hkept => cases hset.symm.trans (hkept.trans herr)
  | cleared he hnone => cases hset.symm.trans hnone
  | raised hs c info hbus r hread ht => exact ⟨OnlyReports.sameBlock ⟨_, _, _, r, ht⟩, ht ▸ hread⟩

/-! ### The error record stays well formed (60_exceptions.md R301, R303) -/

theorem ErrorEffect.errorRecordLegal {e : BusEvent} {s t : State} (h : ErrorEffect e s t) (hs : ErrorRecordLegal s) :
    ErrorRecordLegal t := by
  cases h with
  | kept herr hcode hinfo => rwa [ErrorRecordLegal, herr, hcode, hinfo]
  | cleared he herr hcode hinfo =>
    rw [ErrorRecordLegal, herr, hcode, hinfo]
    exact ⟨fun _ => ⟨rfl, rfl⟩, nofun, fun _ => by decide⟩
  | raised _ c info hbus r _ ht =>
    subst ht
    exact ⟨nofun, fun _ => c.code_range, hbus⟩

/-! ### `OFFSET` stays legal (10_state.md R45) -/

theorem OnlyReports.offset {s t : State} (h : OnlyReports s t) : t.offset = s.offset := by
  obtain ⟨_, _, _, _, rfl⟩ := h
  rfl

theorem offsetLegal_of_eq_ofNat {s : State} {n : Nat} (h : s.offset = BitVec.ofNat 10 n) (hmod : n % 48 = 0)
    (hle : n ≤ 576) : OffsetLegal s := by
  have hn : s.offset.toNat = n := by rw [h, BitVec.toNat_ofNat, Nat.mod_eq_of_lt (by omega)]
  exact ⟨hn ▸ hmod, hn ▸ hle⟩

theorem offsetLegal_zero {s : State} (h : s.offset = 0) : OffsetLegal s :=
  offsetLegal_of_eq_ofNat (n := 0) h rfl (Nat.zero_le 576)

/-- Where `OFFSET` goes does not depend on the form in which the word is returned. -/
theorem offsetLegal_takeWord (f : BitVec Config.wordBits → Limb) {s : State} (h : OffsetLegal s) :
    OffsetLegal (takeWord f s) :=
  (takesFirstWord h).offset

/-- The short path stays below the end of the block, the long one lands on a word of its block (42_generator.md R245). -/
theorem offsetLegal_skipWords {n : Nat} (hn : n < 2 ^ 64) {s : State} (h : OffsetLegal s) :
    OffsetLegal (skipWords n s) := by
  obtain ⟨hmod, hend⟩ := h
  obtain hlt | hle := Nat.lt_or_ge n (wordsLeft s)
  · rw [skipWords_of_lt hlt]
    rw [wordsLeft_eq] at hlt
    exact offsetLegal_of_eq_ofNat rfl (by omega) (by omega)
  · rw [skipWords_of_le hn hle]
    exact offsetLegal_of_eq_ofNat rfl (by omega) (by omega)

theorem offsetLegal_requireReady {i : Instr} {run : State → State} {s t : State} (hs : OffsetLegal s)
    (hrun : OffsetLegal (run s)) (h : requireReady i run s = .next t) : OffsetLegal t := by
  obtain ⟨-, hr⟩ | ⟨-, hr⟩ := requireReady_cases i run s <;> rw [hr] at h <;> cases h
  · exact hrun
  · rwa [OffsetLegal, (onlyReports_raiseError ..).offset]

theorem offsetLegal_exec {i : Instr} {s t : State} (hs : OffsetLegal s) (h : exec i s = .next t) : OffsetLegal t := by
  cases i with
  | nop | mul | red | mulmod | powmod | lda | mov | tolcg | restore => cases h; exact hs
  | toranlux | seed => cases h; exact offsetLegal_zero rfl
  | advance => exact offsetLegal_requireReady hs (offsetLegal_zero rfl) h
  | next => exact offsetLegal_requireReady hs (offsetLegal_takeWord rawWord hs) h
  | skip => exact offsetLegal_requireReady hs (offsetLegal_skipWords s.arg.isLt hs) h
  | nextdbl => exact offsetLegal_requireReady hs (offsetLegal_takeWord f64Bits hs) h

theorem offsetLegal_writeOffset (v : Limb) {s : State} (hs : OffsetLegal s) : OffsetLegal (writeOffset v s) := by
  obtain ⟨hv, h⟩ | ⟨-, h⟩ := writeOffset_cases v s <;> rw [h]
  · exact offsetLegal_of_eq_ofNat (BitVec.ofNat_toNat 10 v).symm hv.1 hv.2
  · rwa [OffsetLegal, (onlyReports_raiseError ..).offset]

theorem offsetLegal_writeCarry (v : Limb) {s : State} (hs : OffsetLegal s) : OffsetLegal (writeCarry v s) := by
  obtain ⟨-, h⟩ | ⟨-, h⟩ := writeCarry_cases v s <;> rw [h]
  · exact hs
  · rwa [OffsetLegal, (onlyReports_raiseError ..).offset]

theorem offsetLegal_writeReg {r : WinReg} (hctrl : r ≠ .ctrl) (v : Limb) {s : State} (hs : OffsetLegal s) :
    OffsetLegal (writeReg r v s) := by
  cases r with
  | ctrl => exact absurd rfl hctrl
  | id | cfg | status | res | a =>
    rw [writeReg, OffsetLegal, (onlyReports_raiseError ..).offset]
    exact hs
  | offset => exact offsetLegal_writeOffset v hs
  | carry => exact offsetLegal_writeCarry v hs
  | cmd | arg | state | prod | v => exact hs

theorem StepEffect.offsetLegal {e : BusEvent} {s t : State} (h : StepEffect e s t) (hs : OffsetLegal s) :
    OffsetLegal t := by
  cases h with
  | reset he ht => exact offsetLegal_zero (ht ▸ resetBlock_offset s)
  | command i he herr ht => exact offsetLegal_exec hs ht
  | register r v hcmd hctrl he ht => exact ht ▸ offsetLegal_writeReg hctrl v hs
  | report ht => rwa [OffsetLegal, ht.offset]

/-! ### The invariant -/

theorem setPending_of_pending_eq {s : State} {es : List BusEvent} (h : s.pending = es) : s.setPending es = s := by
  subst h
  rfl

/-- Settles O57, by whether an event is pending: what it does to `OFFSET` is in `StepEffect`, what to the record in
`ErrorEffect`. -/
theorem stepKeepsInvariant : Obligations.StepKeepsInvariant := by
  rintro s t ⟨hoffset, hrecord⟩ h
  cases hp : s.pending with
  | nil =>
    obtain rfl := Host.Outcome.next.inj ((step_of_pending_nil hp).symm.trans h)
    exact ⟨hoffset, hrecord⟩
  | cons e rest =>
    rw [← setPending_of_pending_eq hp] at h
    exact ⟨(step_effect h).offsetLegal hoffset, (step_errorEffect h).errorRecordLegal hrecord⟩

/-! ### The Ready check (60_exceptions.md R305) -/

theorem needsReady_iff (i : Instr) : i.opcode.needsReady = true ↔ i ∈ [.advance, .next, .skip, .nextdbl] := by
  cases i <;> simp [Instr.opcode, Opcode.needsReady]

theorem exec_of_not_ready_of_error {i : Instr} {s : State} (hi : i.opcode.needsReady = true) (hs : s.ready = false)
    (herr : s.err = true) : exec i s = .next s := by
  have unready (run : State → State) : requireReady i run s = .next s := by
    obtain ⟨hs', -⟩ | ⟨-, h⟩ := requireReady_cases i run s
    · cases hs.symm.trans hs'
    · rw [h, raiseError_of_error herr]
  cases i with
  | advance | next | skip | nextdbl => exact unready _
  | nop | mul | red | mulmod | powmod | lda | mov | tolcg | toranlux | seed | restore => cases hi

/-- Settles O35: the four commands by whether an error is recorded, the others by their frame. -/
theorem readyCheck : Obligations.ReadyCheck := by
  refine ⟨fun i s hi hs => ?_, fun i s hi => ?_⟩
  · have hneeds := (needsReady_iff i).mpr hi
    split
    case isTrue herr => exact exec_of_not_ready_of_error hneeds hs herr
    case isFalse herr => exact exec_of_not_ready hneeds hs (Bool.eq_false_iff.mpr herr)
  · obtain ⟨t, ht, -⟩ := exec_completes i s
    exact ⟨t, ht, exec_errorRecord ht fun hneeds => absurd ((needsReady_iff i).mp hneeds) hi⟩

end Sys2Proof.Machine
end

section
/-! PROOFS of the statements on the encoding (30_encoding.md): the decoder and the encoder are inverse, the rows of the table are disjoint, and an assembler line is read back piece by piece. -/

namespace Sys2Proof

/-! ### The decoder on an encoding (R111, R114) -/

theorem CommandFields.split_encode (i : Instr) : CommandFields.split (encode i) = i.fields :=
  CommandFields.split_pack i.fields

theorem Instr.build_fields (i : Instr) :
    i.opcode.build (vregOfField i.fields.rd) (vregOfField i.fields.ra) (vregOfField i.fields.rb) = i := by
  cases i <;> rfl

/-- The word matches the row of its command, and its fields name the registers. -/
theorem decode_encode (i : Instr) : decode (encode i) = .ok i := by
  have hrow : decode (encode i) = .ok (i.opcode.build (vregOfField (CommandFields.split (encode i)).rd)
      (vregOfField (CommandFields.split (encode i)).ra) (vregOfField (CommandFields.split (encode i)).rb)) :=
    decode_of_maskWord (encode_and_maskWord i)
  rw [hrow, CommandFields.split_encode, Instr.build_fields]

theorem decodeCommand_encode (i : Instr) : decodeCommand ((encode i).setWidth 64) = .ok i :=
  (decodeCommand_setWidth (encode i)).trans (decode_encode i)

theorem decodeTableWord_toNat {w : CmdWord} {i : Instr} (h : decode w = .ok i) :
    decodeTableWord 32 w.toNat = some i := by
  rw [decodeTableWord, Nat.mod_eq_of_lt w.isLt, BitVec.ofNat_toNat, decodeCommand_setWidth, h]

/-- Settles O1: a command's word decodes to it, in a `CMD` write and in the table's view. -/
theorem decodeOfEncodeIsTheCommand : Obligations.DecodeOfEncodeIsTheCommand := fun i =>
  ⟨decode_encode i, decodeCommand_encode i, decodeTableWord_toNat (decode_encode i)⟩

/-- Settles O4: each word is the encoding of its command. -/
theorem specWordsDecode : Obligations.SpecWordsDecode :=
  ⟨decode_encode .nop, decode_encode (.mul 1 2), decode_encode (.red 3), decode_encode (.mulmod 1 2 3),
    decode_encode (.powmod 1 1), decode_encode (.mov 3 1), decode_encode (.toranlux 5), decode_encode .next⟩

/-! ### The rows of the table (R115) -/

theorem Opcode.byte_inj {op op' : Opcode} (h : op.byte = op'.byte) : op = op' :=
  Option.some.inj ((Opcode.lookup_byte op).symm.trans ((Opcode.lookup_eq_some_iff _ _).mpr h.symm))

theorem Opcode.setWidth_matchWord (op : Opcode) : op.matchWord.setWidth 8 = op.byte := by
  cases op <;> rfl

theorem Opcode.setWidth_maskWord (op : Opcode) : op.maskWord.setWidth 8 = 0xFF#8 := by
  cases op <;> rfl

/-- Settles O2: rows that match one word have its bits 7:0 as their opcode, and no two opcodes are equal. -/
theorem decodedWordIsTheEncoding : Obligations.DecodedWordIsTheEncoding := by
  refine ⟨fun v i h => (encode_of_decodeCommand h).symm, fun w op op' h h' => ?_, fun op op' h => ?_,
    Opcode.setWidth_maskWord⟩
  · obtain ⟨hop, -⟩ := (and_maskWord_eq_matchWord_iff w op).mp h
    obtain ⟨hop', -⟩ := (and_maskWord_eq_matchWord_iff w op').mp h'
    exact Opcode.byte_inj (hop.trans hop'.symm)
  · rw [Opcode.setWidth_matchWord, Opcode.setWidth_matchWord] at h
    exact Opcode.byte_inj h

end Sys2Proof

namespace Sys2Proof.Machine

/-! ### The pieces of an assembler line (R121) -/

/-- What follows an operand in a line: a comma and a blank before each further one. -/
def furtherOperands (rs : List VReg) : List Char := (rs.map fun r => ',' :: ' ' :: vregText r).flatten

/-- What follows the mnemonic in a line. -/
def operandText : List VReg → List Char
  | [] => []
  | r :: rs => ' ' :: (vregText r ++ furtherOperands rs)

theorem furtherOperands_cons (r : VReg) (rs : List VReg) :
    furtherOperands (r :: rs) = ',' :: ' ' :: (vregText r ++ furtherOperands rs) := rfl

theorem asmText_eq (i : Instr) : asmText i = opcodeText i.opcode ++ operandText (operandsOf i) := by
  cases i <;> rfl

theorem find?_opcodeText (op : Opcode) :
    Opcode.all.find? (fun op' => opcodeText op' == opcodeText op) = some op := by
  cases op <;> rfl

theorem parseVreg_vregText (r : VReg) : parseVreg (vregText r) = some r := by
  revert r
  decide +kernel

theorem assemble_opcode_operandsOf (i : Instr) : assemble i.opcode (operandsOf i) = some i := by
  cases i <;> rfl

/-! ### Upper and lower case -/

theorem map_toLower_opcodeText (op : Opcode) : (opcodeText op).map Char.toLower = opcodeText op := by
  cases op <;> rfl

theorem map_toLower_toUpper_opcodeText (op : Opcode) :
    (opcodeText op).map (Char.toLower ∘ Char.toUpper) = opcodeText op := by
  cases op <;> rfl

theorem map_toLower_vregText (r : VReg) : (vregText r).map Char.toLower = vregText r := by
  fin_cases r <;> rfl

theorem map_toLower_toUpper_vregText (r : VReg) :
    (vregText r).map (Char.toLower ∘ Char.toUpper) = vregText r := by
  fin_cases r <;> rfl

/-- What keeps the pieces of a line keeps the line. -/
theorem map_asmText {f : Char → Char} (hop : ∀ op, (opcodeText op).map f = opcodeText op)
    (hreg : ∀ r, (vregText r).map f = vregText r) (hblank : f ' ' = ' ') (hcomma : f ',' = ',') (i : Instr) :
    (asmText i).map f = asmText i := by
  have further (rs : List VReg) : (furtherOperands rs).map f = furtherOperands rs := by
    induction rs with
    | nil => rfl
    | cons r rs ih => simp [furtherOperands_cons, hblank, hcomma, hreg, ih]
  rw [asmText_eq, List.map_append, hop]
  cases operandsOf i with
  | nil => rfl
  | cons r rs => simp [operandText, hblank, hreg, further]

theorem map_toLower_asmText (i : Instr) : (asmText i).map Char.toLower = asmText i :=
  map_asmText map_toLower_opcodeText map_toLower_vregText rfl rfl i

theorem map_toLower_map_toUpper_asmText (i : Instr) :
    ((asmText i).map Char.toUpper).map Char.toLower = asmText i := by
  rw [List.map_map]
  exact map_asmText map_toLower_toUpper_opcodeText map_toLower_toUpper_vregText rfl rfl i

/-! ### Blanks and commas -/

theorem trimBlanks_cons (cs : List Char) : trimBlanks (' ' :: cs) = trimBlanks cs := rfl

/-- A text that neither begins nor ends with a blank is kept. -/
theorem trimBlanks_of_ends {cs : List Char} (hhead : cs.head? ≠ some ' ') (hlast : cs.getLast? ≠ some ' ') :
    trimBlanks cs = cs := by
  have keep {l : List Char} (h : l.head? ≠ some ' ') : l.dropWhile (· == ' ') = l := by
    cases l with
    | nil => rfl
    | cons c l => exact List.dropWhile_cons_of_neg (by simpa using h)
  rw [trimBlanks, keep hhead, keep (by rwa [List.head?_reverse]), List.reverse_reverse]

theorem splitCommas_ne_nil (cs : List Char) : splitCommas cs ≠ [] := by
  cases cs with
  | nil => exact List.cons_ne_nil _ _
  | cons c cs =>
    rw [splitCommas]
    split
    · exact List.cons_ne_nil _ _
    · split <;> exact List.cons_ne_nil _ _

theorem splitCommas_comma (cs : List Char) : splitCommas (',' :: cs) = [] :: splitCommas cs := by
  obtain ⟨p, ps, h⟩ := List.exists_cons_of_ne_nil (splitCommas_ne_nil cs)
  rw [splitCommas, h]
  rfl

theorem splitCommas_cons {c : Char} (hc : c ≠ ',') {cs p : List Char} {ps : List (List Char)}
    (h : splitCommas cs = p :: ps) : splitCommas (c :: cs) = (c :: p) :: ps := by
  rw [splitCommas, h]
  exact if_neg hc

/-- A register's name has no comma, so it goes to the first piece. -/
theorem splitCommas_vregText_append (r : VReg) {cs p : List Char} {ps : List (List Char)}
    (h : splitCommas cs = p :: ps) : splitCommas (vregText r ++ cs) = (vregText r ++ p) :: ps := by
  have hdigit : Char.ofNat (48 + r.val) ≠ ',' := by
    revert r
    decide +kernel
  exact splitCommas_cons (by decide) (splitCommas_cons hdigit h)

theorem splitCommas_furtherOperands (rs : List VReg) :
    splitCommas (furtherOperands rs) = [] :: rs.map fun r => ' ' :: vregText r := by
  induction rs with
  | nil => rfl
  | cons r rs ih =>
    have hpiece := splitCommas_cons (c := ' ') (by decide) (splitCommas_vregText_append r ih)
    rw [List.append_nil] at hpiece
    rw [furtherOperands_cons, splitCommas_comma, hpiece, List.map_cons]

theorem trimBlanks_vregText (r : VReg) : trimBlanks (vregText r) = vregText r := by
  fin_cases r <;> rfl

/-- The pieces of an operand list are its registers, with or without a blank before them. -/
theorem mapM_parseVreg_splitCommas (r : VReg) (rs : List VReg) :
    (splitCommas (vregText r ++ furtherOperands rs)).mapM (fun p => parseVreg (trimBlanks p)) = some (r :: rs) := by
  have further : (rs.map fun r => ' ' :: vregText r).mapM (fun p => parseVreg (trimBlanks p)) = some rs := by
    induction rs with
    | nil => rfl
    | cons r rs ih => simp [trimBlanks_cons, trimBlanks_vregText, parseVreg_vregText, ih]
  rw [splitCommas_vregText_append r (splitCommas_furtherOperands rs), List.append_nil, List.mapM_cons, further,
    trimBlanks_vregText, parseVreg_vregText]
  rfl

/-! ### Reading a line -/

theorem not_mem_opcodeText (op : Opcode) : ' ' ∉ opcodeText op := by
  cases op <;> decide

/-- An operand list ends in the digit of its last register. -/
theorem getLast?_operands (r : VReg) (rs : List VReg) :
    (vregText r ++ furtherOperands rs).getLast? ≠ some ' ' := by
  have hdigit (r : VReg) : (vregText r).getLast? ≠ some ' ' := by
    revert r
    decide +kernel
  induction rs generalizing r with
  | nil => exact (List.append_nil (vregText r)).symm ▸ hdigit r
  | cons r' rs ih =>
    rw [furtherOperands_cons, List.getLast?_append_of_ne_nil _ (List.cons_ne_nil _ _)]
    exact ih r'

theorem trimBlanks_operandText (r : VReg) (rs : List VReg) :
    trimBlanks (operandText (r :: rs)) = vregText r ++ furtherOperands rs := by
  rw [operandText, trimBlanks_cons]
  exact trimBlanks_of_ends (by simp [vregText]) (getLast?_operands r rs)

theorem opcodeText_ne_nil (op : Opcode) : opcodeText op ≠ [] := by
  cases op <;> exact List.cons_ne_nil _ _

theorem trimBlanks_asmText (i : Instr) : trimBlanks (asmText i) = asmText i := by
  have hname := not_mem_opcodeText i.opcode
  rw [asmText_eq]
  refine trimBlanks_of_ends ?_ ?_
  · rw [List.head?_append_of_ne_nil _ (opcodeText_ne_nil i.opcode)]
    exact mt List.mem_of_head? hname
  · cases operandsOf i with
    | nil =>
      rw [operandText, List.append_nil]
      exact mt List.mem_of_getLast? hname
    | cons r rs =>
      rw [operandText, List.getLast?_append_of_ne_nil _ (List.cons_ne_nil _ _)]
      exact getLast?_operands r rs

theorem takeWhile_asmText (i : Instr) : (asmText i).takeWhile (· ≠ ' ') = opcodeText i.opcode := by
  have hname : ∀ c ∈ opcodeText i.opcode, decide (c ≠ ' ') = true := fun c hc =>
    decide_eq_true fun hblank => not_mem_opcodeText i.opcode (hblank ▸ hc)
  rw [asmText_eq, List.takeWhile_append_of_pos hname]
  cases operandsOf i with
  | nil => exact List.append_nil _
  | cons r rs => exact List.append_nil _

theorem parseAsm_of_toLower {line : List Char} {i : Instr} (h : line.map Char.toLower = asmText i) :
    parseAsm line = some i := by
  have hrest : (asmText i).drop (opcodeText i.opcode).length = operandText (operandsOf i) := by
    rw [asmText_eq, List.drop_left]
  have hassemble := assemble_opcode_operandsOf i
  dsimp only [parseAsm]
  rw [h, trimBlanks_asmText, takeWhile_asmText, hrest, find?_opcodeText]
  cases hrs : operandsOf i with
  | nil => rw [hrs] at hassemble; exact hassemble
  | cons r rs =>
    rw [hrs] at hassemble
    rw [trimBlanks_operandText, mapM_parseVreg_splitCommas]
    exact (if_neg (List.cons_ne_nil _ _)).trans hassemble

/-- Settles O8: lowering either line gives back the lower-case one. -/
theorem assemblerTextReadsBack : Obligations.AssemblerTextReadsBack := fun i =>
  ⟨parseAsm_of_toLower (map_toLower_asmText i), parseAsm_of_toLower (map_toLower_map_toUpper_asmText i)⟩

end Sys2Proof.Machine
end

section
/-! PROOFS of the statements on the kernel's functions (40_arith.md R144, R145), on `Extract` (42_generator.md R230) and on the reset values (10_state.md R50). -/

set_option exponentiation.threshold 1200

namespace Sys2Proof.Machine

/-! ### `MulMod` and `PowerMod` -/

theorem multiply_comm (a b : Vec576) : multiply a b = multiply b a := by
  apply BitVec.eq_of_toNat_eq
  rw [multiply_toNat, multiply_toNat, Nat.mul_comm]

theorem mulMod_one (a : Vec576) : mulMod a 1 = a := by
  have hproduct : a.toNat * (1 : Vec576).toNat = a.toNat := Nat.mul_one _
  exact BitVec.eq_of_toNat_eq ((mulMod_of_lt (hproduct.trans_lt a.isLt)).trans hproduct)

/-- Settles O13: the laws of the exact product, which `Reduce` keeps. -/
theorem mulModProperties : Obligations.MulModProperties := fun a b =>
  ⟨foldsTo_mulMod a b, congrArg reduce (multiply_comm a b), mulMod_one a, mulMod_mod a b⟩

/-- On leading zero bits of the exponent the chain squares 1. -/
theorem powerChain_of_leading_zeros (b : Vec576) {e : Limb} {i : Nat} (hi : i ≤ 64) (he : e.toNat < 2 ^ (64 - i)) :
    powerChain b e i = 1 := by
  induction i with
  | zero => rfl
  | succ i ih =>
    have hbit : e.getLsbD (63 - i) = false :=
      Nat.testBit_lt_two_pow (he.trans_le (Nat.pow_le_pow_right (by decide) (by omega)))
    have hprev : powerChain b e i = 1 :=
      ih (by omega) (he.trans_le (Nat.pow_le_pow_right (by decide) (by omega)))
    rw [powerChain, hbit, hprev]
    exact mulMod_one 1

theorem powerLoop_eq_powerMod (b : Vec576) {e : Limb} {n : Nat} (hn : n ≤ 64) (he : e.toNat < 2 ^ n) :
    powerLoop b e n 1 = powerMod b e := by
  have hi : 64 - (64 - n) = n := by omega
  rw [powerMod_eq_powerChain, ← powerLoop_powerChain b e (n := n) (i := 64 - n) (by omega),
    powerChain_of_leading_zeros b (by omega) (hi.symm ▸ he)]

/-- Settles O14: the chain of rounds, and that leading zero bits leave it at 1. -/
theorem powerModProperties : Obligations.PowerModProperties := fun b e =>
  ⟨powerMod_powersTo b e, powerMod_mod b e, powerMod_zero b, powerMod_one b, powerMod_of_lt,
    fun _ => powerLoop_eq_powerMod b⟩

/-! ### The windows of a block (42_generator.md R230) -/

/-- Four words and three limbs take up the same 192 bits. -/
theorem extract_group (x : Vec576) (j k : Nat) :
    (extract x (48 * (4 * j + k))).toNat = x.toNat / 2 ^ (192 * j) / 2 ^ (48 * k) % 2 ^ 48 := by
  rw [extract_toNat, Nat.div_div_eq_div_mul, ← Nat.pow_add, Nat.mul_add, ← Nat.mul_assoc]

theorem limb_group (x : Vec576) (j k : Nat) :
    (limb x (3 * j + k)).toNat = x.toNat / 2 ^ (192 * j) / 2 ^ (64 * k) % 2 ^ 64 := by
  rw [limb_toNat, Nat.div_div_eq_div_mul, ← Nat.pow_add, Nat.mul_add, ← Nat.mul_assoc]

/-- Settles O26: within a group, words and limbs are digits of one number in base `2^48` and in base `2^64`. -/
theorem extractStraddlesLimbs : Obligations.ExtractStraddlesLimbs := by
  refine ⟨extract_toNat, fun x j _ => ?_⟩
  have w0 := extract_group x j 0
  have w1 := extract_group x j 1
  have w2 := extract_group x j 2
  have w3 := extract_group x j 3
  have l0 := limb_group x j 0
  have l1 := limb_group x j 1
  have l2 := limb_group x j 2
  generalize x.toNat / 2 ^ (192 * j) = y at *
  simp only [Nat.add_zero] at w0 l0
  omega

/-! ### Reset (10_state.md R50) -/

theorem step_of_isReset {e : BusEvent} (h : isReset e) (rest : List BusEvent) (s : State) :
    step (s.setPending (e :: rest)) = .next (resetBlock (takeEvent rest s)) := by
  obtain rfl | ⟨v, rfl⟩ | rfl | rfl | rfl := h
  · rfl
  · rfl
  · rfl
  · exact step_write_register (r := .ctrl) nofun 1 rest s
  · exact step_write_register (r := .ctrl) nofun 3 rest s

theorem readV_resetBlock (s : State) (r : VReg) : (resetBlock s).readV r = 0 := by
  rw [State.readV, resetBlock_vreg]
  exact Vector.getElem_replicate _

theorem statusWord_resetBlock (s : State) : statusWord (resetBlock s) = 0 := by
  rw [statusWord, resetBlock_ready, resetBlock_err, resetBlock_errCode, resetBlock_errInfo]
  decide

/-- Settles O54: every such event leaves the reset block, whose registers are read off. -/
theorem resetValues : Obligations.ResetValues := by
  intro s e rest he
  exact ⟨_, step_of_isReset he rest s, readV_resetBlock _, resetBlock_prod _, resetBlock_arg _, resetBlock_res _,
    resetBlock_state _, resetBlock_carry _, resetBlock_offset _, resetBlock_ready _, resetBlock_err _,
    resetBlock_errCode _, resetBlock_errInfo _, rfl, rfl, fun _ => rfl, rfl, rfl, statusWord_resetBlock _⟩

end Sys2Proof.Machine
end

section
/-! PROOFS of the statements on the skip law (42_generator.md R246): the block and the word at which `NEXT` and `SKIP` leave the generator. -/

set_option exponentiation.threshold 1200

namespace Sys2Proof.Machine

/-! ### Where the generator stands (42_generator.md R246) -/

/-- Buffer and carry `j` blocks on from those of `s`. The host may load any pair, so that of `s` itself need not be the RANLUX form
of its value. -/
def pairAfter (s : State) (j : Nat) : Vec576 × BitVec 1 :=
  if j = 0 then (s.state, s.carry) else ranluxForm (Config.kA.toNat ^ j * lcgValue s)

theorem pairAfter_zero (s : State) : pairAfter s 0 = (s.state, s.carry) := if_pos rfl

theorem pairAfter_succ (s : State) (j : Nat) :
    pairAfter s (j + 1) = ranluxForm (Config.kA.toNat ^ (j + 1) * lcgValue s) := if_neg (Nat.succ_ne_zero j)

/-- `t` stands before word `i` of the block `j` blocks on from that of `s`; after the last word `i` is 12. -/
structure StandsAt (s t : State) (j i : Nat) : Prop where
  pair : (t.state, t.carry) = pairAfter s j
  offset : t.offset.toNat = 48 * i

section
variable {s t : State} {j i : Nat}

theorem StandsAt.triple_eq {t' : State} (h : StandsAt s t j i) (h' : StandsAt s t' j i) : triple t = triple t' := by
  obtain ⟨hstate, hcarry⟩ := Prod.ext_iff.mp (h.pair.trans h'.pair.symm)
  exact (triple_eq_iff t t').mpr ⟨hstate, hcarry, BitVec.eq_of_toNat_eq (h.offset.trans h'.offset.symm)⟩

/-- The value of the pair `j` blocks on, as a residue. -/
theorem StandsAt.lcgValue_mod (h : StandsAt s t j i) :
    lcgValue t % Config.modulus = Config.kA.toNat ^ j * lcgValue s % Config.modulus := by
  cases j with
  | zero =>
    obtain ⟨hstate, hcarry⟩ := Prod.mk.inj (h.pair.trans (pairAfter_zero s))
    rw [lcgValue, hstate, hcarry, Nat.pow_zero, Nat.one_mul, ← lcgValue]
  | succ j =>
    obtain ⟨hstate, hcarry⟩ := Prod.ext_iff.mp (h.pair.trans (pairAfter_succ s j))
    exact lcgValue_of_ranluxForm hstate hcarry

theorem StandsAt.advance (h : StandsAt s t j i) : StandsAt s (advance t) (j + 1) 0 := by
  have hvalue := Nat.ModEq.mul_left Config.kA.toNat h.lcgValue_mod
  rw [advance_eq, ranluxForm_congr hvalue, ← Nat.mul_assoc, ← Nat.pow_succ', ← pairAfter_succ]
  exact ⟨rfl, rfl⟩

/-- Within the block, taking a word returns it and moves on by one. -/
theorem StandsAt.takeWord_of_lt (h : StandsAt s t j i) (hi : i < 12) (f : BitVec Config.wordBits → Limb) :
    StandsAt s (takeWord f t) j (i + 1) ∧ (takeWord f t).res = f (extract (pairAfter s j).1 (48 * i)) := by
  have hmoved : (BitVec.ofNat 10 (48 * i + 48)).toNat = 48 * (i + 1) :=
    (BitVec.toNat_ofNat ..).trans (Nat.mod_eq_of_lt (by omega))
  have hle : t.offset.toNat ≤ 528 := by rw [h.offset]; omega
  rw [takeWord_of_le hle, h.offset, ← h.pair]
  exact ⟨⟨h.pair, hmoved⟩, rfl⟩

/-- Word `p` counts from the start of the block of `s`. After the last word of a block the next block is taken up. -/
theorem StandsAt.takeWord {p : Nat} (h : StandsAt s t j i) (hi : i ≤ 12) (hp : 12 * j + i = p)
    (f : BitVec Config.wordBits → Limb) :
    StandsAt s (takeWord f t) (p / 12) (p % 12 + 1) ∧
      (takeWord f t).res = f (extract (pairAfter s (p / 12)).1 (48 * (p % 12))) := by
  obtain hlt | rfl := Nat.lt_or_eq_of_le hi
  · obtain rfl : j = p / 12 := by omega
    obtain rfl : i = p % 12 := by omega
    exact h.takeWord_of_lt hlt f
  · have hblock : p / 12 = j + 1 := by omega
    have hword : p % 12 = 0 := by omega
    have hend : 528 < t.offset.toNat := by rw [h.offset]; decide
    rw [Machine.takeWord_of_lt hend, hblock, hword]
    exact h.advance.takeWord_of_lt (by decide) f

end

theorem standsAt_self {s : State} {k : Nat} (h : s.offset.toNat = 48 * k) : StandsAt s s 0 k :=
  ⟨(pairAfter_zero s).symm, h⟩

/-- Both paths of `SKIP` lead to the word they count. -/
theorem standsAt_skipWords {s : State} {k n : Nat} (h : s.offset.toNat = 48 * k) (hk : k ≤ 12) (hn : n < 2 ^ 64) :
    StandsAt s (skipWords n s) ((k + n) / 12) ((k + n) % 12) := by
  have hleft : wordsLeft s = 12 - k := by rw [wordsLeft_eq]; omega
  obtain hlt | hle := Nat.lt_or_ge n (wordsLeft s)
  · have hp : k + n < 12 := by omega
    rw [skipWords_of_lt hlt, Nat.div_eq_of_lt hp, Nat.mod_eq_of_lt hp]
    refine ⟨(pairAfter_zero s).symm, (BitVec.toNat_ofNat ..).trans ?_⟩
    rw [Nat.mod_eq_of_lt (by omega), h, Nat.mul_add]
  · have hblock : (k + n) / 12 = (n - wordsLeft s) / 12 + 1 := by omega
    have hword : (k + n) % 12 = (n - wordsLeft s) % 12 := by omega
    rw [skipWords_of_le hn hle, hblock, hword]
    exact ⟨(pairAfter_succ s _).symm, (BitVec.toNat_ofNat ..).trans (Nat.mod_eq_of_lt (by omega))⟩

/-! ### The `NEXT`s as an iteration -/

theorem OnlyGenerates.trans {s t u : State} (h : OnlyGenerates s t) (h' : OnlyGenerates t u) : OnlyGenerates s u := by
  obtain ⟨_, _, _, rfl⟩ := h
  obtain ⟨p, o, r, rfl⟩ := h'
  exact ⟨p, o, r, rfl⟩

/-- Two runs of the generator from one state agree where triple and `RES` do. -/
theorem OnlyGenerates.eq_of_triple_of_res {s t u : State} (ht : OnlyGenerates s t) (hu : OnlyGenerates s u)
    (htriple : triple t = triple u) (hres : t.res = u.res) : t = u := by
  obtain ⟨⟨x, c⟩, o, r, rfl⟩ := ht
  obtain ⟨⟨x', c'⟩, o', r', rfl⟩ := hu
  obtain ⟨rfl : x = x', rfl : c = c', rfl : o = o'⟩ := (triple_eq_iff _ _).mp htriple
  obtain rfl : r = r' := hres
  rfl

theorem onlyGenerates_iterate_takeWord (f : BitVec Config.wordBits → Limb) (n : Nat) (s : State) :
    OnlyGenerates s ((takeWord f)^[n] s) := by
  induction n with
  | zero => exact .refl s
  | succ n ih => rw [Function.iterate_succ_apply']; exact ih.trans (onlyGenerates_takeWord f _)

theorem repeatNext_eq_iterate (n : Nat) {s : State} (h : s.ready = true) :
    repeatNext n s = .next ((takeWord rawWord)^[n] s) := by
  induction n generalizing s with
  | zero => rfl
  | succ n ih =>
    have hready : (takeWord rawWord s).ready = true := (onlyGenerates_takeWord rawWord s).arg_ready.2.trans h
    rw [repeatNext_succ_of_ready h, ih hready, Function.iterate_succ_apply]

/-- After `n` `NEXT`s the generator stands before word `k + n`. Where a block ends, that is after its last word, because the advance
is lazy; so only the first block is met at its start. -/
theorem standsAt_iterate_takeWord {s : State} {k : Nat} (h : s.offset.toNat = 48 * k) (hk : k ≤ 12)
    (f : BitVec Config.wordBits → Limb) (n : Nat) :
    ∃ j i, StandsAt s ((takeWord f)^[n] s) j i ∧ 12 * j + i = k + n ∧ i ≤ 12 ∧ (i = 0 → j = 0) := by
  induction n with
  | zero => exact ⟨0, k, standsAt_self h, by omega, hk, fun _ => rfl⟩
  | succ n ih =>
    obtain ⟨j, i, hstands, hp, hi, -⟩ := ih
    rw [Function.iterate_succ_apply']
    exact ⟨_, _, (hstands.takeWord hi hp f).1, by omega, by omega, nofun⟩

/-- `SKIP` and the `NEXT`s come to the same word, and taking it leaves one state. -/
theorem takeWord_skipWords {s : State} {k n : Nat} (h : s.offset.toNat = 48 * k) (hk : k ≤ 12) (hn : n < 2 ^ 64)
    (f : BitVec Config.wordBits → Limb) : takeWord f (skipWords n s) = takeWord f ((takeWord f)^[n] s) := by
  obtain ⟨j, i, hnexts, hp, hi, -⟩ := standsAt_iterate_takeWord h hk f n
  obtain ⟨hstands, hres⟩ := hnexts.takeWord hi hp f
  obtain ⟨hstands', hres'⟩ := (standsAt_skipWords h hk hn).takeWord (Nat.le_of_lt (Nat.mod_lt _ (by decide)))
    (Nat.div_add_mod _ 12) f
  exact ((onlyGenerates_skipWords n s).trans (onlyGenerates_takeWord f _)).eq_of_triple_of_res
    ((onlyGenerates_iterate_takeWord f n s).trans (onlyGenerates_takeWord f _)) (hstands'.triple_eq hstands)
    (hres'.trans hres.symm)

/-- Settles O33: before the last word the two stand alike, but where a block ends on either side of the lazy advance. -/
theorem skipLaw : Obligations.SkipLaw := by
  intro s hs hoffset n left
  obtain ⟨k, hk⟩ := Nat.dvd_of_mod_eq_zero hoffset.1
  have hk12 : k ≤ 12 := by omega
  have hleft : left = 12 - k := by omega
  have hready : (skipWords n s).ready = true := (onlyGenerates_skipWords n s).arg_ready.2.trans hs
  have hskip := standsAt_skipWords hk hk12 s.arg.isLt
  obtain ⟨j, i, hnexts, hp, hi, hfirst⟩ := standsAt_iterate_takeWord hk hk12 rawWord n
  refine ⟨_, _, _, exec_skip_of_ready hs, exec_next_of_ready hready, repeatNext_eq_iterate n hs, ?_, fun hother => ?_,
    fun hend => ?_⟩
  · rw [repeatNext_eq_iterate (n + 1) hs, Function.iterate_succ_apply', takeWord_skipWords hk hk12 s.arg.isLt]
  · obtain rfl : j = (k + n) / 12 := by omega
    obtain rfl : i = (k + n) % 12 := by omega
    exact hnexts.triple_eq hskip
  · obtain rfl : i = 12 := by omega
    have hblock : (k + n) / 12 = j + 1 := by omega
    have hword : (k + n) % 12 = 0 := by omega
    rw [hblock, hword] at hskip
    refine ⟨BitVec.eq_of_toNat_eq hnexts.offset, BitVec.eq_of_toNat_eq hskip.offset, ?_⟩
    rw [hskip.pair, ← hnexts.advance.pair, advance_eq]
    rfl

end Sys2Proof.Machine
end

section
/-! PROOFS of the statements on the generator's weak states (70_reset_and_hazards.md R364, R365): the states whose value is 0 or 1 modulo `m`. -/

set_option exponentiation.threshold 1200

namespace Sys2Proof.Machine

/-! ### The value 0 (70_reset_and_hazards.md R364) -/

theorem ranluxForm_of_lt {n : Nat} (h : n < 2 ^ 336) : ranluxForm n = (BitVec.ofNat 576 n, 0) := by
  have hn : (BitVec.ofNat 576 n).toNat = n :=
    (BitVec.toNat_ofNat ..).trans (Nat.mod_eq_of_lt (h.trans (by decide +kernel)))
  have hform := toRanlux_of_lt (x := BitVec.ofNat 576 n) (hn.symm ▸ h)
  rwa [toRanlux_eq_ranluxForm, hn] at hform

theorem ranluxForm_of_mod_eq_zero {n : Nat} (h : n % Config.modulus = 0) : ranluxForm n = (0, 0) :=
  (ranluxForm_congr (h.trans (Nat.zero_mod _).symm)).trans (ranluxForm_of_lt (Nat.two_pow_pos 336))

/-- From a value of 0 every product leads to the all-zero state. -/
theorem ranluxForm_mul_of_lcgValue {s : State} (h : lcgValue s % Config.modulus = 0) (p : Nat) :
    ranluxForm (p * lcgValue s) = (0, 0) :=
  ranluxForm_of_mod_eq_zero (by rw [Nat.mul_mod, h, Nat.mul_zero, Nat.zero_mod])

theorem advance_of_lcgValue {s : State} (h : lcgValue s % Config.modulus = 0) :
    advance s = { s with state := 0, carry := 0, offset := 0 } := by
  rw [advance_eq, ranluxForm_mul_of_lcgValue h, State.loadGenerator_eq]

/-- `STATE` and `CARRY` are 0. -/
def AllZero (s : State) : Prop := s.state = 0 ∧ s.carry = 0

section
variable {s : State} (h : AllZero s)
include h

theorem AllZero.lcgValue_eq : lcgValue s = 0 := by
  obtain ⟨hstate, hcarry⟩ := h
  rw [lcgValue, hstate, hcarry]
  rfl

theorem AllZero.lcgValue_mod : lcgValue s % Config.modulus = 0 := by
  rw [h.lcgValue_eq, Nat.zero_mod]

theorem AllZero.advance_eq : advance s = { s with offset := 0 } := by
  have ⟨hstate, hcarry⟩ := h
  rw [advance_of_lcgValue h.lcgValue_mod, ← hstate, ← hcarry]

theorem AllZero.takeWord : (takeWord rawWord s).res = 0 ∧ AllZero (takeWord rawWord s) := by
  have hzero (o : Nat) : rawWord (extract 0 o) = 0 := by
    rw [rawWord_extract]
    simp
  have ⟨hstate, hcarry⟩ := h
  obtain hlt | hle := Nat.lt_or_ge 528 s.offset.toNat
  · rw [takeWord_of_lt_eq hlt, ranluxForm_mul_of_lcgValue h.lcgValue_mod, hzero]
    exact ⟨rfl, rfl, rfl⟩
  · rw [takeWord_of_le hle, hstate, hzero]
    exact ⟨rfl, hstate, hcarry⟩

theorem AllZero.skipWords {n : Nat} (hn : n < 2 ^ 64) : AllZero (skipWords n s) := by
  obtain hlt | hle := Nat.lt_or_ge n (wordsLeft s)
  · rw [skipWords_of_lt hlt]
    exact h
  · rw [skipWords_of_le hn hle, ranluxForm_mul_of_lcgValue h.lcgValue_mod]
    exact ⟨rfl, rfl⟩

end

/-- All ones with carry 1 is the one pair worth `m` (41_codec.md R201 item 2). -/
theorem lcgValue_allOnes {s : State} (hstate : s.state = BitVec.allOnes 576) (hcarry : s.carry = 1) :
    lcgValue s = Config.modulus := by
  rw [lcgValue, hstate, hcarry]
  decide +kernel

theorem kA_coprime_modulus : Nat.gcd Config.kA.toNat Config.modulus = 1 := by decide +kernel

/-- `SEED` leaves a power of `A`, and no power of `A` is a multiple of `m`. -/
theorem not_allZero_afterSeed (s : State) : ¬ AllZero (afterSeed s) := by
  intro h
  obtain ⟨-, -, hstate, hcarry⟩ := afterSeed_generator s
  have hpower : Config.kA.toNat ^ (2 ^ 96 * s.arg.toNat) % Config.modulus = 0 :=
    (lcgValue_of_ranluxForm hstate hcarry).symm.trans h.lcgValue_mod
  have hone : Config.modulus = 1 :=
    (Nat.Coprime.pow_left _ kA_coprime_modulus).symm.eq_one_of_dvd (Nat.dvd_of_mod_eq_zero hpower)
  exact absurd hone (by decide +kernel)

/-- Settles O38: value 0 is kept by every product, and a power of `A` is never worth it. -/
theorem allZeroStateIsAFixedPoint : Obligations.AllZeroStateIsAFixedPoint := by
  refine ⟨fun s hs hstate hcarry => ?_, rfl, fun ra s hv => ?_, fun s hs hstate hcarry => ?_, kA_coprime_modulus,
    fun s t ht => ?_⟩
  · have h : AllZero s := ⟨hstate, hcarry⟩
    exact ⟨(exec_advance_of_ready hs).trans (congrArg _ h.advance_eq), ⟨_, exec_next_of_ready hs, h.takeWord⟩,
      ⟨_, exec_skip_of_ready hs, h.skipWords s.arg.isLt⟩⟩
  · have hresidue : (s.readV ra).toNat % Config.modulus = 0 := by
      rw [State.readV]
      obtain hv | hv := hv <;> rw [hv]
      · exact Nat.zero_mod _
      · exact Nat.mod_self _
    rw [exec_toranlux, ranluxForm_of_mod_eq_zero hresidue]
    rfl
  · have hvalue : lcgValue s % Config.modulus = 0 := by rw [lcgValue_allOnes hstate hcarry, Nat.mod_self]
    rw [exec_advance_of_ready hs, advance_of_lcgValue hvalue]
  · obtain rfl := Host.Outcome.next.inj ((exec_seed_eq s).symm.trans ht)
    exact not_allZero_afterSeed s

/-! ### The value 1 (70_reset_and_hazards.md R365) -/

theorem afterSeed_of_arg_zero {s : State} (h : s.arg = 0) :
    afterSeed s = { s with state := 1, carry := 0, offset := 0, ready := true } := by
  have hpower : Config.kA.toNat ^ (2 ^ 96 * s.arg.toNat) = 1 := by
    rw [h]
    exact Nat.pow_zero _
  rw [afterSeed, hpower, ranluxForm_of_lt (Nat.one_lt_two_pow (by decide))]
  rfl

/-- Settles O39: `A^0` is 1, and only the first window of the buffer 1 reaches its bit. -/
theorem seedZeroIsWeak : Obligations.SeedZeroIsWeak := by
  intro s harg
  refine ⟨(exec_seed_eq s).trans (congrArg _ (afterSeed_of_arg_zero harg)), fun k _ => ?_⟩
  rw [extract_eq_ofNat]
  split
  case isTrue hk => subst hk; rfl
  case isFalse hk =>
    have hwindow : (1 : Vec576).toNat / 2 ^ (48 * k) = 0 := Nat.div_eq_of_lt (Nat.one_lt_two_pow (by omega))
    rw [hwindow]
    rfl

end Sys2Proof.Machine
end
